-- ==== Sys2Proof/Word.lean ====
section
/-! DEFINITION. The widths of the machine (rule R5): data cells and registers, data addresses, ROM-space addresses. -/

namespace Sys2Proof

/-- An 8-bit quantity: a register, a data cell, a ROM byte, an `i8` immediate (R5, R12, R19). -/
abbrev Byte := BitVec 8

/-- A 9-bit data address, as a `d9` operand holds it (R5, R52). -/
abbrev DataAddr := BitVec 9

/-- A 16-bit ROM-space address, the width of `tr` and of `pc` (R5, R13, R18). -/
abbrev CodeAddr := BitVec 16

/-- The 2-bit number of an indirect register `R0`..`R3` (R17, R52). -/
abbrev IndReg := BitVec 2

end Sys2Proof
end

