-- ==== Sys2Proof/Config.lean ====
section
/-! DEFINITION. What the spec leaves OPEN (R5, R21, file 92): the types of the parameters a machine is launched with, and the
two uninterpreted functions `Config.div0` and `Config.indAddr`. The instantiation in force stands in the state
(`State.params`, log 1), so a statement for every state is a statement for every instantiation. -/

namespace Sys2Proof

/-- The registers that `sfr_map` can place at a data address (R32). -/
inductive Reg where
  | acc | b | c | psw | trl | trh | sp
  deriving DecidableEq, Repr, Inhabited

/-- The OPEN parameter `sfr_map` (R32), written from the register's side: the data address each register is reached at,
if any. Read from the address's side (`SfrMap.lookup`) every value of this type is a partial injective function (log 8). -/
structure SfrMap where
  acc : Option DataAddr
  b   : Option DataAddr
  c   : Option DataAddr
  psw : Option DataAddr
  trl : Option DataAddr
  trh : Option DataAddr
  sp  : Option DataAddr
  deriving DecidableEq, Repr, Inhabited

/-- The OPEN parameter `psw_layout` (R14): the bit positions of the three flags in `psw`. The rule has them distinct;
`PswLayout.wellFormed` says so. -/
structure PswLayout where
  posCy : Fin 8
  posAc : Fin 8
  posOv : Fin 8
  deriving DecidableEq, Repr, Inhabited

/-- Instantiations of the OPEN parameter `ind_addr` (R17, R36; log 6). -/
inductive IndRule where
  /-- nothing assumed: the uninterpreted total function `Config.indAddr` of the state and the register number -/
  | free
  /-- four separate indirect registers, which no documented instruction writes (the alternative R17 names) -/
  | fixed (r0 r1 r2 r3 : DataAddr)
  /-- the candidate of annex G5: the pointer is the data cell `4 * bank + i`, its top bit is bit 1 of `i` -/
  | banked
  deriving DecidableEq, Repr, Inhabited

/-- The parameters a run is launched with that are plain data (R21): constant over a run, written by no instruction.
`rom` is a field of the state of its own, `entry_pc` is the launch value of `pc`, `div0` is `Config.div0`. -/
structure Params where
  sfrMap    : SfrMap
  pswLayout : PswLayout
  indRule   : IndRule
  /-- `halt_pc` (R193): where the run ends; `none` where no claim names one (log 4) -/
  haltPc    : Option CodeAddr
  deriving DecidableEq, Repr, Inhabited

/-- What `ind_addr` may depend on: the architectural state without `pc` and `refused` (R36). -/
structure ArchView where
  acc  : Byte
  b    : Byte
  c    : Byte
  psw  : Byte
  trh  : Byte
  trl  : Byte
  sp   : Byte
  data : List Host.Cell
  deriving DecidableEq, Repr, Inhabited

/-- The results of `div` by zero that the spec leaves OPEN (R81). -/
structure Div0Result where
  acc : Byte
  c   : Byte
  b   : Byte
  ov  : Bool
  deriving DecidableEq, Repr, Inhabited

/-- FREE VALUE (R81, log 7): `div0(acc, c)`, the outcome of `div` when `b` is 0. Nothing constrains it. -/
opaque Config.div0 : Byte → Byte → Div0Result

/-- FREE VALUE (R36, log 6): `ind_addr(state, i)` where the launch parameters do not instantiate it. -/
opaque Config.indAddr : ArchView → IndReg → DataAddr

end Sys2Proof
end

