-- ==== Sys2Proof/Machine/Launch.lean ====
section
/-! DEFINITION. The instantiation of the OPEN parameters, and the register values, that `State.reset` stands for (log 2): the
spec gives none (R23, R191), so they are the family's, PRESUMED from the annex of file 93 (G3, G4, G5, G11). No statement rests
on them but those that say so. -/

namespace Sys2Proof.Machine

/-- PRESUMED, annex G3 (log 2, unsafe): the family's register addresses. R32 names this map as an admissible instantiation. -/
def Launch.sfrMap : SfrMap :=
  { acc := some 0x100, psw := some 0x101, b := some 0x102, c := some 0x103, trl := some 0x104, trh := some 0x105,
    sp := some 0x106 }

/-- PRESUMED, annex G4 (log 2, unsafe): `cy` bit 7, `ac` bit 6, `ov` bit 2. -/
def Launch.pswLayout : PswLayout := { posCy := 7, posAc := 6, posOv := 2 }

/-- The launch parameters of `State.reset`: the family's layout, and no `halt_pc` (DESIGN CHOICE, log 4). -/
def Launch.params : Params :=
  { sfrMap := Launch.sfrMap, pswLayout := Launch.pswLayout, indRule := .banked, haltPc := none }

/-- PRESUMED, annex G11 (log 2, unsafe): `entry_pc`. -/
def Launch.entryPc : CodeAddr := 0x0000

/-- PRESUMED (log 2, unsafe): every register of the family is 0 after reset. -/
def Launch.register : Reg → Byte
  | .acc => 0x00
  | .b   => 0x00
  | .c   => 0x00
  | .psw => 0x00
  | .trl => 0x00
  | .trh => 0x00
  | .sp  => 0x00

end Sys2Proof.Machine
end

