-- ==== Sys2Proof/Machine/Memory.lean ====
section
/-! DEFINITION. Memory as plain data: a list of (address, byte) pairs in one canonical form, used for the data space (R19, R31)
and the ROM space (R20, R38). -/

namespace Sys2Proof.Machine

/-- A byte-addressed memory: the listed cells, by rising address, none holding what an unlisted address reads as. -/
abbrev Memory := List Host.Cell

/-- DESIGN CHOICE (log 3, unsafe): what an address reads as that nothing has written. The spec leaves launch contents open
(R23); any contents can be listed. -/
def Memory.unlisted : Byte := 0

/-- The byte at an address. -/
def Memory.read (m : Memory) (a : Nat) : Byte :=
  match m with
  | [] => Memory.unlisted
  | (k, v) :: rest => if k = a then v else Memory.read rest a

/-- The memory without an entry for an address. -/
def Memory.erase (m : Memory) (a : Nat) : Memory := m.filter fun cell => cell.1 != a

/-- The memory with an entry put before the first higher address. -/
def Memory.insertCell (m : Memory) (a : Nat) (v : Byte) : Memory :=
  match m with
  | [] => [(a, v)]
  | (k, w) :: rest => if a < k then (a, v) :: (k, w) :: rest else (k, w) :: Memory.insertCell rest a v

/-- The memory with one byte replaced, in canonical form again. -/
def Memory.write (m : Memory) (a : Nat) (v : Byte) : Memory :=
  if v = Memory.unlisted then Memory.erase m a else Memory.insertCell (Memory.erase m a) a v

/-- Consecutive bytes written from an address up, each address reduced to 16 bits. -/
def Memory.writeBytes (m : Memory) (a : CodeAddr) : List Byte → Memory
  | [] => m
  | v :: rest => Memory.writeBytes (Memory.write m a.toNat v) (a + 1) rest

/-- The canonical form of a memory of `size` cells. -/
abbrev Memory.wf (size : Nat) (m : Memory) : Prop :=
  m.Pairwise (fun x y => x.1 < y.1) ∧ ∀ cell ∈ m, cell.1 < size ∧ cell.2 ≠ Memory.unlisted

end Sys2Proof.Machine
end

