-- ==== Sys2Proof/Machine/State.lean ====
section
/-! DEFINITION. The architectural state (R11), the ways a step can end (R172, R193), and the state after reset. -/

namespace Sys2Proof.Machine

/-- The complete architectural state of R11, as plain data, with the parameters a step takes (R21): `rom` and `params`, which no
instruction writes (log 1). `cy`, `ac` and `ov` are bits of `psw` (R15), `tr` is `trh` and `trl` (R13), and what `@R0`..`@R3`
designate is `params.indRule` (R17). -/
structure State where
  acc     : Byte
  b       : Byte
  c       : Byte
  psw     : Byte
  trh     : Byte
  trl     : Byte
  sp      : Byte
  pc      : CodeAddr
  /-- the data space `D[0x000..0x1FF]` (R19) -/
  data    : Memory
  /-- the ROM space, an OPEN parameter constant over a run (R20) -/
  rom     : Memory
  /-- the mark of a refused run (R22); no step starts from a state that bears it (R25) -/
  refused : Bool
  params  : Params
  deriving DecidableEq, Repr

/-- What stops the machine. The spec has no exception and no trap (R170): the one fault is the end of a run. -/
inductive Fault where
  /-- Raised by `step` when `pc = halt_pc`: the run is over and there is no step (R25 (1), R193). Safe: it says nothing of what
  the chip does there. -/
  | runEnded
  deriving DecidableEq, Repr, Inhabited

/-- Where the model has no meaning for a step: the closed list of R172, without `DivByZero` (this model carries `div0`, R81) and
without `UndocumentedMnemonic` (the assembler's, `AsmRefusal`). -/
inductive Refusal where
  /-- Raised by an arm of `exec` that has no meaning yet; no arm raises it now. Safe. -/
  | notModelled (mnemonic : String)
  /-- Raised by `State.fetchInstr`: no documented form claims the first byte (R56, U1). Safe: the chip very likely executes one
  of the named-only instructions. -/
  | undocumentedOpcode (b0 : Byte)
  /-- Raised by `State.fetchInstr`: `pc + L >= 0x10000` (R18, U9). Safe. -/
  | pcWrap
  /-- Raised by `push` and `pop` whose operand address `sfr_map` maps to `sp` (R115, R116, D17, U4). Safe. -/
  | pushPopSp
  /-- Raised by `step` in a state whose run is already refused: a step is taken from a state with `refused = 0` only (R22, R25).
  R172's list does not hold this reason: it is the model's (DEDUCED, log 5). Safe. -/
  | alreadyRefused
  deriving DecidableEq, Repr, Inhabited

/-- The machine right after reset: `refused` is 0 (R23) and `pc` is `entry_pc` (R191). The spec gives no other value; the
registers and parameters are those of `Launch` (log 2), and both memories have nothing listed (log 3). -/
def State.reset : State :=
  { acc := Launch.register .acc, b := Launch.register .b, c := Launch.register .c, psw := Launch.register .psw,
    trh := Launch.register .trh, trl := Launch.register .trl, sp := Launch.register .sp, pc := Launch.entryPc,
    data := [], rom := [], refused := false, params := Launch.params }

/-- The state with `acc` replaced. -/
def State.setAcc (s : State) (v : Byte) : State := { s with acc := v }
/-- The state with `b` replaced. -/
def State.setB (s : State) (v : Byte) : State := { s with b := v }
/-- The state with `c` replaced. -/
def State.setC (s : State) (v : Byte) : State := { s with c := v }
/-- The state with `psw` replaced. -/
def State.setPsw (s : State) (v : Byte) : State := { s with psw := v }
/-- The state with `trh` replaced. -/
def State.setTrh (s : State) (v : Byte) : State := { s with trh := v }
/-- The state with `trl` replaced. -/
def State.setTrl (s : State) (v : Byte) : State := { s with trl := v }
/-- The state with `sp` replaced. -/
def State.setSp (s : State) (v : Byte) : State := { s with sp := v }
/-- The state with `pc` replaced. -/
def State.setPc (s : State) (v : CodeAddr) : State := { s with pc := v }
/-- The state with the data space replaced. -/
def State.setData (s : State) (m : Memory) : State := { s with data := m }
/-- The state with the mark of a refused run, which nothing takes off (R22). -/
def State.markRefused (s : State) : State := { s with refused := true }

end Sys2Proof.Machine
end

