-- ==== Sys2Proof/Machine/Ops.lean ====
section
/-! DEFINITION. The named operations over registers and memory: the register overlay, MemRead, MemWrite, IndAddr, StackAddr,
RomRead, Fetch (file 20), and the advance of `pc` (R18). The spec describes no exception, no trap entry and no return from one
(R170, R174, R175), so there is no such operation. -/

namespace Sys2Proof.Machine

/-- The value of a register that `sfr_map` can name. -/
def State.readReg (s : State) : Reg → Byte
  | .acc => s.acc
  | .b   => s.b
  | .c   => s.c
  | .psw => s.psw
  | .trl => s.trl
  | .trh => s.trh
  | .sp  => s.sp

/-- The state with a register that `sfr_map` can name replaced. -/
def State.writeReg (s : State) (r : Reg) (v : Byte) : State :=
  match r with
  | .acc => s.setAcc v
  | .b   => s.setB v
  | .c   => s.setC v
  | .psw => s.setPsw v
  | .trl => s.setTrl v
  | .trh => s.setTrh v
  | .sp  => s.setSp v

/-- The data address a map gives a register. -/
def SfrMap.addressOf (m : SfrMap) : Reg → Option DataAddr
  | .acc => m.acc
  | .b   => m.b
  | .c   => m.c
  | .psw => m.psw
  | .trl => m.trl
  | .trh => m.trh
  | .sp  => m.sp

/-- The registers in the order in which `SfrMap.lookup` tries them. -/
def allRegs : List Reg := [.acc, .b, .c, .psw, .trl, .trh, .sp]

/-- `sfr_map(a)` (R32): the register that data address `a` is, if any. -/
def SfrMap.lookup (m : SfrMap) (a : DataAddr) : Option Reg :=
  allRegs.find? fun r => decide (SfrMap.addressOf m r = some a)

/-- `sfr_map(a)` under the parameters in force. -/
def State.sfrAt (s : State) (a : DataAddr) : Option Reg := SfrMap.lookup s.params.sfrMap a

/-- `MemRead(a, 1)` (R33): the register that `a` is mapped to, otherwise the cell `D[a]`. -/
def State.memRead (s : State) (a : DataAddr) : Byte :=
  match s.sfrAt a with
  | some r => s.readReg r
  | none => s.data.read a.toNat

/-- `MemWrite(a, 1, v)` (R34): to the register that `a` is mapped to, otherwise to the cell `D[a]`. Nothing else changes. -/
def State.memWrite (s : State) (a : DataAddr) (v : Byte) : State :=
  match s.sfrAt a with
  | some r => s.writeReg r v
  | none => s.setData (s.data.write a.toNat v)

/-- The architectural state that `ind_addr` may depend on (R36). -/
def State.archView (s : State) : ArchView :=
  { acc := s.acc, b := s.b, c := s.c, psw := s.psw, trh := s.trh, trl := s.trl, sp := s.sp, data := s.data }

/-- The candidate `ind_addr` of annex G5 (PRESUMED, log 2): the pointer is the byte at data address `4 * bank + i`, `bank` being
bits 4 and 3 of `psw`; the top bit of the address is bit 1 of `i`. DESIGN CHOICE (log 6): the annex writes the pointer as the
cell `D[4 * bank + i]`, and the model reads it with `memRead`, so a register that `sfr_map` puts at that address is the pointer
(R32: no cell is behind it). -/
def State.bankedAddr (s : State) (i : IndReg) : DataAddr :=
  i.extractLsb' 1 1 ++ s.memRead ((0 : BitVec 5) ++ s.psw.extractLsb' 3 2 ++ i)

/-- `IndAddr(i)` (R36): the data address that `@Ri` designates in this state, under the parameters in force. -/
def State.indAddr (s : State) (i : IndReg) : DataAddr :=
  match s.params.indRule with
  | .free => Config.indAddr s.archView i
  | .fixed r0 r1 r2 r3 => if i = 0 then r0 else if i = 1 then r1 else if i = 2 then r2 else r3
  | .banked => s.bankedAddr i

/-- `StackAddr(s) = zext_9(s)` (R37). -/
def stackAddr (sp : Byte) : DataAddr := sp.setWidth 9

/-- `RomRead(a)` (R38). -/
def State.romRead (s : State) (a : CodeAddr) : Byte := s.rom.read a.toNat

/-- `Fetch(a)` is `RomRead(a)` (R39). -/
def State.fetch (s : State) (a : CodeAddr) : Byte := s.romRead a

/-- `tr`: `trh` above `trl` (R13). -/
def State.tr (s : State) : CodeAddr := s.trh ++ s.trl

/-- The 16-bit argument of `mul` and `div`: `acc` above `c` (R79, R80). -/
def State.accC (s : State) : BitVec 16 := s.acc ++ s.c

/-- `pc <- pc + L` (R18). `State.fetchInstr` has refused the step before this where the sum would not fit in 16 bits. -/
def State.advance (s : State) (len : Nat) : State := s.setPc (s.pc + BitVec.ofNat 16 len)

end Sys2Proof.Machine
end

