-- ==== Sys2Proof/Machine/Flags.lean ====
section
/-! DEFINITION. The flags as bits of `psw` (R14, R15) and the flag computations of the adders (R71, R72). -/

namespace Sys2Proof.Machine

/-- A byte with one bit replaced. -/
def putBit (v : Byte) (k : Fin 8) (x : Bool) : Byte :=
  (v &&& ~~~(BitVec.ofNat 8 1 <<< k.val)) ||| ((BitVec.ofBool x).setWidth 8 <<< k.val)

/-- `cy = psw[pos_cy]` (R15). -/
def State.cy (s : State) : Bool := s.psw.getLsbD s.params.pswLayout.posCy.val
/-- `ac = psw[pos_ac]` (R15). -/
def State.ac (s : State) : Bool := s.psw.getLsbD s.params.pswLayout.posAc.val
/-- `ov = psw[pos_ov]` (R15). -/
def State.ov (s : State) : Bool := s.psw.getLsbD s.params.pswLayout.posOv.val

/-- `cy <- x`. -/
def State.putCy (s : State) (x : Bool) : State := s.setPsw (putBit s.psw s.params.pswLayout.posCy x)
/-- `ac <- x`. -/
def State.putAc (s : State) (x : Bool) : State := s.setPsw (putBit s.psw s.params.pswLayout.posAc x)
/-- `ov <- x`. -/
def State.putOv (s : State) (x : Bool) : State := s.setPsw (putBit s.psw s.params.pswLayout.posOv x)

/-- What an adder gives: the result byte and the three flags. -/
structure AluResult where
  res : Byte
  cy  : Bool
  ac  : Bool
  ov  : Bool
  deriving DecidableEq, Repr

/-- A value that an 8-bit two's-complement number cannot hold. -/
def outsideSigned8 (v : Int) : Bool := decide (v < -128) || decide (127 < v)

/-- `AddFlags(a, s, k)` (R71; decisions D11, D12, log 10): the sum modulo 256; carry out of bit 7; carry out of bit 3; signed
overflow. -/
def addFlags (a s : Byte) (k : Bool) : AluResult :=
  { res := BitVec.ofNat 8 (a.toNat + s.toNat + k.toNat)
    cy  := decide (255 < a.toNat + s.toNat + k.toNat)
    ac  := decide (15 < a.toNat % 16 + s.toNat % 16 + k.toNat)
    ov  := outsideSigned8 (a.toInt + s.toInt + (k.toNat : Int)) }

/-- `SubFlags(a, s, k)` (R72; decisions D11, D13, log 10): the difference modulo 256; borrow out of bit 7; borrow out of bit 3;
signed overflow. -/
def subFlags (a s : Byte) (k : Bool) : AluResult :=
  { res := BitVec.ofInt 8 ((a.toNat : Int) - (s.toNat : Int) - (k.toNat : Int))
    cy  := decide ((a.toNat : Int) - (s.toNat : Int) - (k.toNat : Int) < 0)
    ac  := decide (((a.toNat % 16 : Nat) : Int) - ((s.toNat % 16 : Nat) : Int) - (k.toNat : Int) < 0)
    ov  := outsideSigned8 (a.toInt - s.toInt - (k.toNat : Int)) }

/-- `acc <- r ; cy <- cy' ; ac <- ac' ; ov <- ov'` (R73 to R76). -/
def State.putAlu (s : State) (r : AluResult) : State := (((s.setAcc r.res).putCy r.cy).putAc r.ac).putOv r.ov

end Sys2Proof.Machine
end

