-- ==== Sys2Proof/Machine/Operands.lean ====
section
/-! DEFINITION. The operand forms (R8) and the shapes in which instructions use them. Each shape is one operation of the state,
without the advance of `pc`. -/

namespace Sys2Proof.Machine

/-- An operand that designates a data address: `d9` or `@Ri` (R8). -/
inductive Loc where
  | direct (a : DataAddr)
  | indirect (i : IndReg)
  deriving DecidableEq, Repr

/-- A source operand: `#i8`, `d9` or `@Ri` (R8). -/
inductive Src where
  | imm (v : Byte)
  | loc (l : Loc)
  deriving DecidableEq, Repr

/-- The data address of an operand, in the state before the instruction's first write (R8, R36). -/
def State.locAddr (s : State) : Loc → DataAddr
  | .direct a => a
  | .indirect i => s.indAddr i

/-- The value of a source operand (R8). -/
def State.srcValue (s : State) : Src → Byte
  | .imm v => v
  | .loc l => s.memRead (s.locAddr l)

/-- `add` and `addc` (R73, R74): `k` is the carry that comes in. -/
def State.addSrc (s : State) (x : Src) (k : Bool) : State := s.putAlu (addFlags s.acc (s.srcValue x) k)

/-- `sub` and `subc` (R75, R76): `k` is the borrow that comes in. -/
def State.subSrc (s : State) (x : Src) (k : Bool) : State := s.putAlu (subFlags s.acc (s.srcValue x) k)

/-- `and`, `or`, `xor` (R91 to R93): the result goes to `acc`; no flag (D32). -/
def State.bitSrc (s : State) (f : Byte → Byte → Byte) (x : Src) : State := s.setAcc (f s.acc (s.srcValue x))

/-- `inc`, `dec` (R77, R78): read, change, write one cell. -/
def State.updateLoc (s : State) (f : Byte → Byte) (l : Loc) : State :=
  s.memWrite (s.locAddr l) (f (s.memRead (s.locAddr l)))

/-- `ld` (R111). -/
def State.loadLoc (s : State) (l : Loc) : State := s.setAcc (s.memRead (s.locAddr l))

/-- `st` and `mov` (R112, R113). -/
def State.storeLoc (s : State) (l : Loc) (v : Byte) : State := s.memWrite (s.locAddr l) v

/-- `xch` (R117): both values are read before either is written. -/
def State.exchangeLoc (s : State) (l : Loc) : State :=
  (s.memWrite (s.locAddr l) s.acc).setAcc (s.memRead (s.locAddr l))

/-- `push` (R115): the operand is read, `sp` is incremented, the incremented `sp` addresses the write. -/
def State.pushFrom (s : State) (a : DataAddr) : State :=
  (s.setSp (s.sp + 1)).memWrite (stackAddr (s.sp + 1)) (s.memRead a)

/-- `pop` (R116, C2): the stack cell is read, written to the operand, and `sp` is decremented. -/
def State.popTo (s : State) (a : DataAddr) : State :=
  (s.memWrite a (s.memRead (stackAddr s.sp))).setSp ((s.memWrite a (s.memRead (stackAddr s.sp))).sp - 1)

end Sys2Proof.Machine
end

