-- ==== Sys2Proof/Syntax.lean ====
section
/-! DEFINITION. Syntax: the 42 documented forms (one constructor per row of spec/opcode_table.json), and the 44 mnemonics of the
index table with their families (R3, R4). -/

namespace Sys2Proof

/-- The 42 documented forms, in the order of spec/opcode_table.json. `Imm` is the `#i8` form, `Dir` the `d9` form, `Ind` the
`@Ri` form. -/
inductive Instr where
  -- Arithmetic family (R73 to R80)
  | addImm (v : Byte)
  | addDir (a : DataAddr)
  | addInd (i : IndReg)
  | addcImm (v : Byte)
  | addcDir (a : DataAddr)
  | addcInd (i : IndReg)
  | subImm (v : Byte)
  | subDir (a : DataAddr)
  | subInd (i : IndReg)
  | subcImm (v : Byte)
  | subcDir (a : DataAddr)
  | subcInd (i : IndReg)
  | incDir (a : DataAddr)
  | incInd (i : IndReg)
  | decDir (a : DataAddr)
  | decInd (i : IndReg)
  | mul
  | div
  -- Bitwise family (R91 to R97)
  | andImm (v : Byte)
  | andDir (a : DataAddr)
  | andInd (i : IndReg)
  | orImm (v : Byte)
  | orDir (a : DataAddr)
  | orInd (i : IndReg)
  | xorImm (v : Byte)
  | xorDir (a : DataAddr)
  | xorInd (i : IndReg)
  | rol
  | rolc
  | ror
  | rorc
  -- Memory/Storage family (R111 to R117)
  | ldDir (a : DataAddr)
  | ldInd (i : IndReg)
  | stDir (a : DataAddr)
  | stInd (i : IndReg)
  /-- `mov #i8, d9`: the source is written first and the destination second (R61) -/
  | movDir (v : Byte) (a : DataAddr)
  /-- `mov #i8, @Ri` -/
  | movInd (v : Byte) (i : IndReg)
  | ldc
  | pushDir (a : DataAddr)
  | popDir (a : DataAddr)
  | xchDir (a : DataAddr)
  | xchInd (i : IndReg)
  deriving DecidableEq, Repr, Inhabited

/-- The 44 mnemonics of the index table (R3, R4). -/
inductive Mnemonic where
  -- Arithmetic
  | add | addc | sub | subc | inc | dec | mul | div
  -- Bitwise
  | and | or | xor | rol | rolc | ror | rorc | clr1 | set1
  -- Memory/Storage
  | ld | st | mov | ldc | push | pop | xch | ldf | stf
  -- Jump
  | jmp | jmpf | br | brf
  -- Branch
  | bz | bnz | bp | bpc | bn | dbnz | be | bne
  -- Call
  | call | callf | callr | ret | reti
  -- NOP
  | nop
  deriving DecidableEq, Repr, Inhabited

/-- The seven columns of the index table. -/
inductive Family where
  | arithmetic | bitwise | storage | jump | branch | call | nop
  deriving DecidableEq, Repr, Inhabited

end Sys2Proof
end

