-- ==== Sys2Proof/Machine/Arithmetic.lean ====
section
/-! DEFINITION. The Arithmetic family (file 40): `add` `addc` `sub` `subc` `inc` `dec` `mul` `div`, one meaning per form. -/

namespace Sys2Proof.Machine

/-- `add #i8` (R73). -/
def execAddImm (v : Byte) (s : State) : Host.Outcome State Fault Refusal :=
  .next ((s.addSrc (.imm v) false).advance 2)

/-- `add d9` (R73). -/
def execAddDir (a : DataAddr) (s : State) : Host.Outcome State Fault Refusal :=
  .next ((s.addSrc (.loc (.direct a)) false).advance 2)

/-- `add @Ri` (R73). -/
def execAddInd (i : IndReg) (s : State) : Host.Outcome State Fault Refusal :=
  .next ((s.addSrc (.loc (.indirect i)) false).advance 1)

/-- `addc #i8` (R74; the carry before the instruction comes in). -/
def execAddcImm (v : Byte) (s : State) : Host.Outcome State Fault Refusal :=
  .next ((s.addSrc (.imm v) s.cy).advance 2)

/-- `addc d9` (R74; the carry before the instruction comes in). -/
def execAddcDir (a : DataAddr) (s : State) : Host.Outcome State Fault Refusal :=
  .next ((s.addSrc (.loc (.direct a)) s.cy).advance 2)

/-- `addc @Ri` (R74; the carry before the instruction comes in). -/
def execAddcInd (i : IndReg) (s : State) : Host.Outcome State Fault Refusal :=
  .next ((s.addSrc (.loc (.indirect i)) s.cy).advance 1)

/-- `sub #i8` (R75). -/
def execSubImm (v : Byte) (s : State) : Host.Outcome State Fault Refusal :=
  .next ((s.subSrc (.imm v) false).advance 2)

/-- `sub d9` (R75). -/
def execSubDir (a : DataAddr) (s : State) : Host.Outcome State Fault Refusal :=
  .next ((s.subSrc (.loc (.direct a)) false).advance 2)

/-- `sub @Ri` (R75). -/
def execSubInd (i : IndReg) (s : State) : Host.Outcome State Fault Refusal :=
  .next ((s.subSrc (.loc (.indirect i)) false).advance 1)

/-- `subc #i8` (R76; the carry before the instruction comes in). -/
def execSubcImm (v : Byte) (s : State) : Host.Outcome State Fault Refusal :=
  .next ((s.subSrc (.imm v) s.cy).advance 2)

/-- `subc d9` (R76; the carry before the instruction comes in). -/
def execSubcDir (a : DataAddr) (s : State) : Host.Outcome State Fault Refusal :=
  .next ((s.subSrc (.loc (.direct a)) s.cy).advance 2)

/-- `subc @Ri` (R76; the carry before the instruction comes in). -/
def execSubcInd (i : IndReg) (s : State) : Host.Outcome State Fault Refusal :=
  .next ((s.subSrc (.loc (.indirect i)) s.cy).advance 1)

/-- `inc d9` (R77): modulo 256 (D11), no flag as a side effect. -/
def execIncDir (a : DataAddr) (s : State) : Host.Outcome State Fault Refusal :=
  .next ((s.updateLoc (· + 1) (.direct a)).advance 2)

/-- `inc @Ri` (R77): modulo 256 (D11), no flag as a side effect. -/
def execIncInd (i : IndReg) (s : State) : Host.Outcome State Fault Refusal :=
  .next ((s.updateLoc (· + 1) (.indirect i)).advance 1)

/-- `dec d9` (R78): modulo 256 (D11), no flag as a side effect. -/
def execDecDir (a : DataAddr) (s : State) : Host.Outcome State Fault Refusal :=
  .next ((s.updateLoc (· - 1) (.direct a)).advance 2)

/-- `dec @Ri` (R78): modulo 256 (D11), no flag as a side effect. -/
def execDecInd (i : IndReg) (s : State) : Host.Outcome State Fault Refusal :=
  .next ((s.updateLoc (· - 1) (.indirect i)).advance 1)

/-- The 24-bit product of `mul` (R79): unsigned (D31). -/
def State.product (s : State) : BitVec 24 := BitVec.ofNat 24 (s.accC.toNat * s.b.toNat)

/-- `mul` without the advance of `pc` (R79): the product goes to `b`, `acc`, `c` from the top; `cy` is cleared, `ov` is set iff
the product is over 16 bits, `ac` is unchanged. -/
def State.multiply (s : State) : State :=
  ((((s.setB (s.product.extractLsb' 16 8)).setAcc (s.product.extractLsb' 8 8)).setC (s.product.extractLsb' 0 8)).putCy
    false).putOv (decide (0xFFFF < s.product.toNat))

/-- `mul` (R79). -/
def execMul (s : State) : Host.Outcome State Fault Refusal :=
  .next (s.multiply.advance 1)

/-- The results of a division go to their registers: the quotient to `acc` and `c`, the remainder to `b`; `cy` is cleared, `ov`
is written, `ac` is unchanged (R80, R81). -/
def State.putDiv (s : State) (acc' c' b' : Byte) (ov' : Bool) : State :=
  ((((s.setAcc acc').setC c').setB b').putCy false).putOv ov'

/-- The 16-bit quotient of `div` (R80): unsigned, rounded down (D31). -/
def State.quotient (s : State) : BitVec 16 := BitVec.ofNat 16 (s.accC.toNat / s.b.toNat)

/-- The 8-bit remainder of `div` (R80). -/
def State.remainder (s : State) : Byte := BitVec.ofNat 8 (s.accC.toNat % s.b.toNat)

/-- `div` without the advance of `pc`. With a zero divisor the results are the free value `Config.div0` of the operands (R81,
log 7); otherwise `ov` is set iff the remainder is zero, as the source's table states (R80, log 16). -/
def State.divide (s : State) : State :=
  if s.b = 0 then
    s.putDiv (Config.div0 s.acc s.c).acc (Config.div0 s.acc s.c).c (Config.div0 s.acc s.c).b (Config.div0 s.acc s.c).ov
  else
    s.putDiv (s.quotient.extractLsb' 8 8) (s.quotient.extractLsb' 0 8) s.remainder (decide (s.remainder = 0))

/-- `div` (R80, R81). -/
def execDiv (s : State) : Host.Outcome State Fault Refusal :=
  .next (s.divide.advance 1)

end Sys2Proof.Machine
end

