-- ==== Sys2Proof/Machine/Bitwise.lean ====
section
/-! DEFINITION. The Bitwise family (file 41): `and` `or` `xor` `rol` `rolc` `ror` `rorc`, one meaning per form. -/

namespace Sys2Proof.Machine

/-- `and #i8` (R91). -/
def execAndImm (v : Byte) (s : State) : Host.Outcome State Fault Refusal :=
  .next ((s.bitSrc (· &&& ·) (.imm v)).advance 2)

/-- `and d9` (R91). -/
def execAndDir (a : DataAddr) (s : State) : Host.Outcome State Fault Refusal :=
  .next ((s.bitSrc (· &&& ·) (.loc (.direct a))).advance 2)

/-- `and @Ri` (R91). -/
def execAndInd (i : IndReg) (s : State) : Host.Outcome State Fault Refusal :=
  .next ((s.bitSrc (· &&& ·) (.loc (.indirect i))).advance 1)

/-- `or #i8` (R92). -/
def execOrImm (v : Byte) (s : State) : Host.Outcome State Fault Refusal :=
  .next ((s.bitSrc (· ||| ·) (.imm v)).advance 2)

/-- `or d9` (R92). -/
def execOrDir (a : DataAddr) (s : State) : Host.Outcome State Fault Refusal :=
  .next ((s.bitSrc (· ||| ·) (.loc (.direct a))).advance 2)

/-- `or @Ri` (R92). -/
def execOrInd (i : IndReg) (s : State) : Host.Outcome State Fault Refusal :=
  .next ((s.bitSrc (· ||| ·) (.loc (.indirect i))).advance 1)

/-- `xor #i8` (R93). -/
def execXorImm (v : Byte) (s : State) : Host.Outcome State Fault Refusal :=
  .next ((s.bitSrc (· ^^^ ·) (.imm v)).advance 2)

/-- `xor d9` (R93). -/
def execXorDir (a : DataAddr) (s : State) : Host.Outcome State Fault Refusal :=
  .next ((s.bitSrc (· ^^^ ·) (.loc (.direct a))).advance 2)

/-- `xor @Ri` (R93). -/
def execXorInd (i : IndReg) (s : State) : Host.Outcome State Fault Refusal :=
  .next ((s.bitSrc (· ^^^ ·) (.loc (.indirect i))).advance 1)

/-- A byte moved one bit to the left, with a bit coming in at the bottom (R94, R95). -/
def shiftInLow (v : Byte) (x : Bool) : Byte := v.extractLsb' 0 7 ++ BitVec.ofBool x

/-- A byte moved one bit to the right, with a bit coming in at the top (R96, R97). -/
def shiftInHigh (v : Byte) (x : Bool) : Byte := BitVec.ofBool x ++ v.extractLsb' 1 7

/-- `rol` (R94): the top bit wraps around to the bottom; no flag. -/
def execRol (s : State) : Host.Outcome State Fault Refusal :=
  .next ((s.setAcc (shiftInLow s.acc (s.acc.getLsbD 7))).advance 1)

/-- `rolc` (R95): left through `cy`. -/
def execRolc (s : State) : Host.Outcome State Fault Refusal :=
  .next (((s.setAcc (shiftInLow s.acc s.cy)).putCy (s.acc.getLsbD 7)).advance 1)

/-- `ror` (R96): the bottom bit wraps around to the top; no flag. -/
def execRor (s : State) : Host.Outcome State Fault Refusal :=
  .next ((s.setAcc (shiftInHigh s.acc (s.acc.getLsbD 0))).advance 1)

/-- `rorc` (R97): right through `cy`. -/
def execRorc (s : State) : Host.Outcome State Fault Refusal :=
  .next (((s.setAcc (shiftInHigh s.acc s.cy)).putCy (s.acc.getLsbD 0)).advance 1)

end Sys2Proof.Machine
end

