-- ==== Sys2Proof/Machine/Storage.lean ====
section
/-! DEFINITION. The Memory/Storage family (file 42): `ld` `st` `mov` `ldc` `push` `pop` `xch`, one meaning per form. -/

namespace Sys2Proof.Machine

/-- `ld d9` (R111). -/
def execLdDir (a : DataAddr) (s : State) : Host.Outcome State Fault Refusal :=
  .next ((s.loadLoc (.direct a)).advance 2)

/-- `ld @Ri` (R111). -/
def execLdInd (i : IndReg) (s : State) : Host.Outcome State Fault Refusal :=
  .next ((s.loadLoc (.indirect i)).advance 1)

/-- `st d9` (R112). -/
def execStDir (a : DataAddr) (s : State) : Host.Outcome State Fault Refusal :=
  .next ((s.storeLoc (.direct a) s.acc).advance 2)

/-- `st @Ri` (R112). -/
def execStInd (i : IndReg) (s : State) : Host.Outcome State Fault Refusal :=
  .next ((s.storeLoc (.indirect i) s.acc).advance 1)

/-- `mov #i8, d9` (R113): the destination is not read. -/
def execMovDir (v : Byte) (a : DataAddr) (s : State) : Host.Outcome State Fault Refusal :=
  .next ((s.storeLoc (.direct a) v).advance 3)

/-- `mov #i8, @Ri` (R113): the destination is not read. -/
def execMovInd (v : Byte) (i : IndReg) (s : State) : Host.Outcome State Fault Refusal :=
  .next ((s.storeLoc (.indirect i) v).advance 2)

/-- The ROM address of `ldc` (R114): `acc` is added to `tr` unsigned, modulo 2^16 (D15, log 15). -/
def State.ldcAddr (s : State) : CodeAddr := s.tr + s.acc.setWidth 16

/-- `ldc` (R114). -/
def execLdc (s : State) : Host.Outcome State Fault Refusal :=
  .next ((s.setAcc (s.romRead s.ldcAddr)).advance 1)

/-- `push d9` (R115). An operand that is `sp` itself is refused: the source does not say whether it is read before or after the
increment (D17, log 14). -/
def execPushDir (a : DataAddr) (s : State) : Host.Outcome State Fault Refusal :=
  if s.sfrAt a = some .sp then .refused .pushPopSp else .next ((s.pushFrom a).advance 2)

/-- `pop d9` (R116). The value goes to the operand, `acc` is not written (C2, log 13); an operand that is `sp` itself is refused
(D17, log 14). -/
def execPopDir (a : DataAddr) (s : State) : Host.Outcome State Fault Refusal :=
  if s.sfrAt a = some .sp then .refused .pushPopSp else .next ((s.popTo a).advance 2)

/-- `xch d9` (R117). -/
def execXchDir (a : DataAddr) (s : State) : Host.Outcome State Fault Refusal :=
  .next ((s.exchangeLoc (.direct a)).advance 2)

/-- `xch @Ri` (R117). -/
def execXchInd (i : IndReg) (s : State) : Host.Outcome State Fault Refusal :=
  .next ((s.exchangeLoc (.indirect i)).advance 1)

end Sys2Proof.Machine
end

