-- ==== Sys2Proof/Machine/Dispatch.lean ====
section
/-! DEFINITION. One arm per documented form (R3): the meaning each instruction is given. -/

namespace Sys2Proof.Machine

def exec (i : Instr) (s : State) : Host.Outcome State Fault Refusal :=
  match i with
  | .addImm v => Sys2Proof.Machine.execAddImm v s
  | .addDir a => Sys2Proof.Machine.execAddDir a s
  | .addInd r => Sys2Proof.Machine.execAddInd r s
  | .addcImm v => Sys2Proof.Machine.execAddcImm v s
  | .addcDir a => Sys2Proof.Machine.execAddcDir a s
  | .addcInd r => Sys2Proof.Machine.execAddcInd r s
  | .subImm v => Sys2Proof.Machine.execSubImm v s
  | .subDir a => Sys2Proof.Machine.execSubDir a s
  | .subInd r => Sys2Proof.Machine.execSubInd r s
  | .subcImm v => Sys2Proof.Machine.execSubcImm v s
  | .subcDir a => Sys2Proof.Machine.execSubcDir a s
  | .subcInd r => Sys2Proof.Machine.execSubcInd r s
  | .incDir a => Sys2Proof.Machine.execIncDir a s
  | .incInd r => Sys2Proof.Machine.execIncInd r s
  | .decDir a => Sys2Proof.Machine.execDecDir a s
  | .decInd r => Sys2Proof.Machine.execDecInd r s
  | .mul => Sys2Proof.Machine.execMul s
  | .div => Sys2Proof.Machine.execDiv s
  | .andImm v => Sys2Proof.Machine.execAndImm v s
  | .andDir a => Sys2Proof.Machine.execAndDir a s
  | .andInd r => Sys2Proof.Machine.execAndInd r s
  | .orImm v => Sys2Proof.Machine.execOrImm v s
  | .orDir a => Sys2Proof.Machine.execOrDir a s
  | .orInd r => Sys2Proof.Machine.execOrInd r s
  | .xorImm v => Sys2Proof.Machine.execXorImm v s
  | .xorDir a => Sys2Proof.Machine.execXorDir a s
  | .xorInd r => Sys2Proof.Machine.execXorInd r s
  | .rol => Sys2Proof.Machine.execRol s
  | .rolc => Sys2Proof.Machine.execRolc s
  | .ror => Sys2Proof.Machine.execRor s
  | .rorc => Sys2Proof.Machine.execRorc s
  | .ldDir a => Sys2Proof.Machine.execLdDir a s
  | .ldInd r => Sys2Proof.Machine.execLdInd r s
  | .stDir a => Sys2Proof.Machine.execStDir a s
  | .stInd r => Sys2Proof.Machine.execStInd r s
  | .movDir v a => Sys2Proof.Machine.execMovDir v a s
  | .movInd v r => Sys2Proof.Machine.execMovInd v r s
  | .ldc => Sys2Proof.Machine.execLdc s
  | .pushDir a => Sys2Proof.Machine.execPushDir a s
  | .popDir a => Sys2Proof.Machine.execPopDir a s
  | .xchDir a => Sys2Proof.Machine.execXchDir a s
  | .xchInd r => Sys2Proof.Machine.execXchInd r s

end Sys2Proof.Machine
end

