-- ==== Sys2Proof/WellFormed.lean ====
section
/-! DEFINITION. Well-formedness: the ranges of the operand fields (R57, R60) and what the spec requires of the launch
parameters (R14, R32). -/

namespace Sys2Proof

/-- A `d9` operand is one of 512 data addresses (R57, R60). -/
def inRangeD9 (n : Nat) : Bool := decide (n < 512)

/-- An `i8` operand is one of 256 values (R57, R60). -/
def inRangeI8 (n : Nat) : Bool := decide (n < 256)

/-- An `@Ri` operand names one of four indirect registers (R57, R60). -/
def inRangeRi (n : Nat) : Bool := decide (n < 4)

/-- Every operand field is in its range. The constructors' types already hold this: within the documented forms every field
value is legal, so no instruction is ill-formed (R57). The same checks do refuse source text (Machine/Assembler.lean). -/
def Instr.wellFormed : Instr → Bool
  | .addImm v => inRangeI8 v.toNat
  | .addDir a => inRangeD9 a.toNat
  | .addInd i => inRangeRi i.toNat
  | .addcImm v => inRangeI8 v.toNat
  | .addcDir a => inRangeD9 a.toNat
  | .addcInd i => inRangeRi i.toNat
  | .subImm v => inRangeI8 v.toNat
  | .subDir a => inRangeD9 a.toNat
  | .subInd i => inRangeRi i.toNat
  | .subcImm v => inRangeI8 v.toNat
  | .subcDir a => inRangeD9 a.toNat
  | .subcInd i => inRangeRi i.toNat
  | .incDir a => inRangeD9 a.toNat
  | .incInd i => inRangeRi i.toNat
  | .decDir a => inRangeD9 a.toNat
  | .decInd i => inRangeRi i.toNat
  | .mul => true
  | .div => true
  | .andImm v => inRangeI8 v.toNat
  | .andDir a => inRangeD9 a.toNat
  | .andInd i => inRangeRi i.toNat
  | .orImm v => inRangeI8 v.toNat
  | .orDir a => inRangeD9 a.toNat
  | .orInd i => inRangeRi i.toNat
  | .xorImm v => inRangeI8 v.toNat
  | .xorDir a => inRangeD9 a.toNat
  | .xorInd i => inRangeRi i.toNat
  | .rol => true
  | .rolc => true
  | .ror => true
  | .rorc => true
  | .ldDir a => inRangeD9 a.toNat
  | .ldInd i => inRangeRi i.toNat
  | .stDir a => inRangeD9 a.toNat
  | .stInd i => inRangeRi i.toNat
  | .movDir v a => inRangeI8 v.toNat && inRangeD9 a.toNat
  | .movInd v i => inRangeI8 v.toNat && inRangeRi i.toNat
  | .ldc => true
  | .pushDir a => inRangeD9 a.toNat
  | .popDir a => inRangeD9 a.toNat
  | .xchDir a => inRangeD9 a.toNat
  | .xchInd i => inRangeRi i.toNat

/-- The three flags stand at three distinct bits of `psw` (R14). -/
def PswLayout.wellFormed (l : PswLayout) : Bool :=
  decide (l.posCy ≠ l.posAc) && decide (l.posCy ≠ l.posOv) && decide (l.posAc ≠ l.posOv)

/-- The data addresses a map gives away, in the order of its fields. -/
def SfrMap.addresses (m : SfrMap) : List DataAddr :=
  [m.acc, m.b, m.c, m.psw, m.trl, m.trh, m.sp].filterMap id

/-- `sfr_map` is a function: no data address is claimed by two registers (R32). -/
def SfrMap.wellFormed (m : SfrMap) : Bool := decide m.addresses.Nodup

/-- The launch parameters are ones the spec admits. -/
def Params.wellFormed (p : Params) : Bool := p.sfrMap.wellFormed && p.pswLayout.wellFormed

end Sys2Proof
end

