-- ==== Sys2Proof/Decode.lean ====
section
/-! DEFINITION. Instruction encoding (file 30): the opcode table, the decoder (total on any bytes, rejecting by name), the
encoder, and the numbering in which spec/opcode_table.json writes an instruction as one number. -/

namespace Sys2Proof

/-- One row of the opcode table: the fixed bits of byte 0 (`mask`, `pattern`), the length in bytes and how the instruction is
assembled from its bytes (R50 to R52). -/
structure OpRow where
  mask    : Byte
  pattern : Byte
  length  : Nat
  build   : Byte → Byte → Byte → Instr

/-- `d9 = (byte0[0], byte1[7:0])` (R52). -/
def fieldD9 (b0 b1 : Byte) : DataAddr := b0.extractLsb' 0 1 ++ b1

/-- `i = byte0[1:0]` (R52). -/
def fieldRi (b0 : Byte) : IndReg := b0.extractLsb' 0 2

/-- Format `INH`: one byte, all fixed (R51). -/
def rowInh (op : Byte) (i : Instr) : OpRow := ⟨0xFF, op, 1, fun _ _ _ => i⟩

/-- Format `IMM`: `oooo 0001`, `i8` (R51). -/
def rowImm (op : Byte) (mk : Byte → Instr) : OpRow := ⟨0xFF, op, 2, fun _ b1 _ => mk b1⟩

/-- Format `DIR`: `oooo 001 d8` (or `oooo 000 d8`), `d7..d0` (R51). -/
def rowDir (op : Byte) (mk : DataAddr → Instr) : OpRow := ⟨0xFE, op, 2, fun b0 b1 _ => mk (fieldD9 b0 b1)⟩

/-- Format `IND`: `oooo 01 r1 r0` (R51). -/
def rowInd (op : Byte) (mk : IndReg → Instr) : OpRow := ⟨0xFC, op, 1, fun b0 _ _ => mk (fieldRi b0)⟩

/-- Format `DIRIMM`: `0010 001 d8`, `d7..d0`, `i8` (R51). -/
def rowDirImm (op : Byte) (mk : Byte → DataAddr → Instr) : OpRow :=
  ⟨0xFE, op, 3, fun b0 b1 b2 => mk b2 (fieldD9 b0 b1)⟩

/-- Format `INDIMM`: `0010 01 r1 r0`, `i8` (R51). -/
def rowIndImm (op : Byte) (mk : Byte → IndReg → Instr) : OpRow := ⟨0xFC, op, 2, fun b0 b1 _ => mk b1 (fieldRi b0)⟩

/-- The rows of the Arithmetic family (R73 to R80). -/
def arithmeticRows : List OpRow :=
  [ rowImm 0x81 .addImm,
    rowDir 0x82 .addDir,
    rowInd 0x84 .addInd,
    rowImm 0x91 .addcImm,
    rowDir 0x92 .addcDir,
    rowInd 0x94 .addcInd,
    rowImm 0xA1 .subImm,
    rowDir 0xA2 .subDir,
    rowInd 0xA4 .subInd,
    rowImm 0xB1 .subcImm,
    rowDir 0xB2 .subcDir,
    rowInd 0xB4 .subcInd,
    rowDir 0x62 .incDir,
    rowInd 0x64 .incInd,
    rowDir 0x72 .decDir,
    rowInd 0x74 .decInd,
    rowInh 0x30 .mul,
    rowInh 0x40 .div ]

/-- The rows of the Bitwise family (R91 to R97). -/
def bitwiseRows : List OpRow :=
  [ rowImm 0xE1 .andImm,
    rowDir 0xE2 .andDir,
    rowInd 0xE4 .andInd,
    rowImm 0xD1 .orImm,
    rowDir 0xD2 .orDir,
    rowInd 0xD4 .orInd,
    rowImm 0xF1 .xorImm,
    rowDir 0xF2 .xorDir,
    rowInd 0xF4 .xorInd,
    rowInh 0xE0 .rol,
    rowInh 0xF0 .rolc,
    rowInh 0xC0 .ror,
    rowInh 0xD0 .rorc ]

/-- The rows of the Memory/Storage family (R111 to R117). -/
def storageRows : List OpRow :=
  [ rowDir 0x02 .ldDir,
    rowInd 0x04 .ldInd,
    rowDir 0x12 .stDir,
    rowInd 0x14 .stInd,
    rowDirImm 0x22 .movDir,
    rowIndImm 0x24 .movInd,
    rowInh 0xC1 .ldc,
    rowDir 0x60 .pushDir,
    rowDir 0x70 .popDir,
    rowDir 0xC2 .xchDir,
    rowInd 0xC4 .xchInd ]

/-- The opcode table: the 42 documented forms, in the order of spec/opcode_table.json. No two rows overlap (R55). -/
def opcodeTable : List OpRow := arithmeticRows ++ bitwiseRows ++ storageRows

/-- The row a first byte belongs to: the form and the length follow from `b0` alone (R53); `none` for the 160 undocumented
values (R56). -/
def lookupRow (b0 : Byte) : Option OpRow := opcodeTable.find? fun r => b0 &&& r.mask == r.pattern

/-- Why bytes are no instruction. -/
inductive DecodeError where
  /-- there is no first byte -/
  | noBytes
  /-- no documented form claims the first byte (R56) -/
  | undocumentedOpcode (b0 : Byte)
  /-- the form needs more bytes than are there -/
  | truncated (b0 : Byte)
  deriving DecidableEq, Repr, Inhabited

/-- The decoder (R53): the instruction at the head of a byte list and the bytes after it, or why there is none. -/
def decode : List Byte → Except DecodeError (Instr × List Byte)
  | [] => .error .noBytes
  | b0 :: rest =>
    match lookupRow b0 with
    | none => .error (.undocumentedOpcode b0)
    | some r =>
      if rest.length + 1 < r.length then .error (.truncated b0)
      else .ok (r.build b0 (rest.getD 0 0) (rest.getD 1 0), rest.drop (r.length - 1))

/-- The bytes of a `d9` form: the address's top bit goes into byte 0 (R51). -/
def bytesDir (op : Byte) (a : DataAddr) : List Byte := [op ||| (a.extractLsb' 8 1).setWidth 8, a.setWidth 8]

/-- The byte of an `@Ri` form (R51). -/
def bytesInd (op : Byte) (i : IndReg) : List Byte := [op ||| i.setWidth 8]

/-- The encoder, written from the bit patterns of R73 to R80, R91 to R97 and R111 to R117; `pop`'s top address bit is `d8` (C1). -/
def encode : Instr → List Byte
  | .addImm v => [0x81, v]
  | .addDir a => bytesDir 0x82 a
  | .addInd i => bytesInd 0x84 i
  | .addcImm v => [0x91, v]
  | .addcDir a => bytesDir 0x92 a
  | .addcInd i => bytesInd 0x94 i
  | .subImm v => [0xA1, v]
  | .subDir a => bytesDir 0xA2 a
  | .subInd i => bytesInd 0xA4 i
  | .subcImm v => [0xB1, v]
  | .subcDir a => bytesDir 0xB2 a
  | .subcInd i => bytesInd 0xB4 i
  | .incDir a => bytesDir 0x62 a
  | .incInd i => bytesInd 0x64 i
  | .decDir a => bytesDir 0x72 a
  | .decInd i => bytesInd 0x74 i
  | .mul => [0x30]
  | .div => [0x40]
  | .andImm v => [0xE1, v]
  | .andDir a => bytesDir 0xE2 a
  | .andInd i => bytesInd 0xE4 i
  | .orImm v => [0xD1, v]
  | .orDir a => bytesDir 0xD2 a
  | .orInd i => bytesInd 0xD4 i
  | .xorImm v => [0xF1, v]
  | .xorDir a => bytesDir 0xF2 a
  | .xorInd i => bytesInd 0xF4 i
  | .rol => [0xE0]
  | .rolc => [0xF0]
  | .ror => [0xC0]
  | .rorc => [0xD0]
  | .ldDir a => bytesDir 0x02 a
  | .ldInd i => bytesInd 0x04 i
  | .stDir a => bytesDir 0x12 a
  | .stInd i => bytesInd 0x14 i
  | .movDir v a => bytesDir 0x22 a ++ [v]
  | .movInd v i => bytesInd 0x24 i ++ [v]
  | .ldc => [0xC1]
  | .pushDir a => bytesDir 0x60 a
  | .popDir a => bytesDir 0x70 a
  | .xchDir a => bytesDir 0xC2 a
  | .xchInd i => bytesInd 0xC4 i

/-- The length of an instruction in bytes, as the spec's tables give it form by form (R50). -/
def Instr.length : Instr → Nat
  | .addImm _ => 2
  | .addDir _ => 2
  | .addInd _ => 1
  | .addcImm _ => 2
  | .addcDir _ => 2
  | .addcInd _ => 1
  | .subImm _ => 2
  | .subDir _ => 2
  | .subInd _ => 1
  | .subcImm _ => 2
  | .subcDir _ => 2
  | .subcInd _ => 1
  | .incDir _ => 2
  | .incInd _ => 1
  | .decDir _ => 2
  | .decInd _ => 1
  | .mul => 1
  | .div => 1
  | .andImm _ => 2
  | .andDir _ => 2
  | .andInd _ => 1
  | .orImm _ => 2
  | .orDir _ => 2
  | .orInd _ => 1
  | .xorImm _ => 2
  | .xorDir _ => 2
  | .xorInd _ => 1
  | .rol => 1
  | .rolc => 1
  | .ror => 1
  | .rorc => 1
  | .ldDir _ => 2
  | .ldInd _ => 1
  | .stDir _ => 2
  | .stInd _ => 1
  | .movDir _ _ => 3
  | .movInd _ _ => 2
  | .ldc => 1
  | .pushDir _ => 2
  | .popDir _ => 2
  | .xchDir _ => 2
  | .xchInd _ => 1

/-- The mnemonic of an instruction. -/
def Instr.mnemonic : Instr → Mnemonic
  | .addImm _ => .add
  | .addDir _ => .add
  | .addInd _ => .add
  | .addcImm _ => .addc
  | .addcDir _ => .addc
  | .addcInd _ => .addc
  | .subImm _ => .sub
  | .subDir _ => .sub
  | .subInd _ => .sub
  | .subcImm _ => .subc
  | .subcDir _ => .subc
  | .subcInd _ => .subc
  | .incDir _ => .inc
  | .incInd _ => .inc
  | .decDir _ => .dec
  | .decInd _ => .dec
  | .mul => .mul
  | .div => .div
  | .andImm _ => .and
  | .andDir _ => .and
  | .andInd _ => .and
  | .orImm _ => .or
  | .orDir _ => .or
  | .orInd _ => .or
  | .xorImm _ => .xor
  | .xorDir _ => .xor
  | .xorInd _ => .xor
  | .rol => .rol
  | .rolc => .rolc
  | .ror => .ror
  | .rorc => .rorc
  | .ldDir _ => .ld
  | .ldInd _ => .ld
  | .stDir _ => .st
  | .stInd _ => .st
  | .movDir _ _ => .mov
  | .movInd _ _ => .mov
  | .ldc => .ldc
  | .pushDir _ => .push
  | .popDir _ => .pop
  | .xchDir _ => .xch
  | .xchInd _ => .xch

/-- The low `n` bytes of `w`, the most significant first. -/
def bytesBE : Nat → Nat → List Byte
  | 0, _ => []
  | n + 1, w => BitVec.ofNat 8 (w >>> (8 * n)) :: bytesBE n w

/-- The longest instruction has 3 bytes (R50). -/
def maxLength : Nat := 3

/-- The bytes, at rising addresses, of an instruction that spec/opcode_table.json writes as one number `w` of `nbits` bits. The
table's rows are single words of 8, 16 or 24 bits whose most significant byte is byte 0 (a row's `match` and `fixed`), and the
hardware stores byte 0 at the lowest address (R40; log 20). Bytes past `nbits` are 0. -/
def tableBytes (nbits w : Nat) : List Byte :=
  (bytesBE ((nbits + 7) / 8) w ++ List.replicate maxLength 0).take maxLength

/-- What the decoder reads from an instruction that the opcode table writes as the number `w` of `nbits` bits. -/
def decodeTableWord (nbits w : Nat) : Option Instr :=
  match decode (tableBytes nbits w) with
  | .ok (i, _) => some i
  | .error _ => none

end Sys2Proof
end

