-- ==== Sys2Proof/Machine/Fetch.lean ====
section
/-! DEFINITION. Fetching an instruction: steps 2 to 4 of R25, in the order of R173. -/

namespace Sys2Proof.Machine

/-- `n` bytes of the ROM space from an address up, as instruction fetch reads them (R40). -/
def State.fetchBytes (s : State) (a : CodeAddr) : Nat → List Byte
  | 0 => []
  | n + 1 => s.fetch a :: State.fetchBytes s (a + 1) n

/-- Steps 2 to 4 of R25: the first byte decides the form and its length `L`, `pc + L >= 0x10000` is refused, then the remaining
`L - 1` bytes are fetched and the fields assembled. -/
def State.fetchInstr (s : State) : Except Refusal Instr :=
  match lookupRow (s.fetch s.pc) with
  | none => .error (.undocumentedOpcode (s.fetch s.pc))
  | some r =>
    if 0x10000 ≤ s.pc.toNat + r.length then .error .pcWrap
    else
      match decode (s.fetchBytes s.pc r.length) with
      | .ok (i, _) => .ok i
      | .error _ => .error (.undocumentedOpcode (s.fetch s.pc))

end Sys2Proof.Machine
end

