-- ==== Sys2Proof/Machine/Step.lean ====
section
/-! DEFINITION. One step of the core (R25), and placing an instruction where the next step fetches it. -/

namespace Sys2Proof.Machine

/-- One step (R25): none from a refused run or at `halt_pc`; otherwise fetch, decode and execute. The checks are made in the
order of R173; the advance of `pc` is part of each instruction's meaning. -/
def step (s : State) : Host.Outcome State Fault Refusal :=
  if s.refused then .refused .alreadyRefused
  else if s.params.haltPc = some s.pc then .fault .runEnded
  else
    match s.fetchInstr with
    | .error r => .refused r
    | .ok i => exec i s

/-- The state with the instruction that the opcode table writes as `w` (`nbits` bits, log 20) placed in the ROM space at `pc`,
and nothing in the way of a step: the run neither refused nor ended there. It stands for loading a program from outside the
machine (log 21). -/
def State.withFetchWord (s : State) (nbits w : Nat) : State :=
  { s with
    rom := s.rom.writeBytes s.pc (tableBytes nbits w)
    refused := false
    params := { s.params with haltPc := if s.params.haltPc = some s.pc then none else s.params.haltPc } }

end Sys2Proof.Machine
end

