-- ==== Sys2Proof/Machine/Assembler.lean ====
section
/-! DEFINITION. The assembler side of the spec (R58 to R64): source text to instructions. It refuses, by name, the 22 mnemonics
the source names and does not describe, and every other word, before it looks at anything else of the line (R4, R64, R172). What
numerals, symbols, blanks and ranges it accepts, and the order of the refusals after that, is log 23. -/

namespace Sys2Proof.Machine

/-- The index table's column of each mnemonic (R4, R130, R140, R150, R160). -/
def Mnemonic.family : Mnemonic → Family
  | .add | .addc | .sub | .subc | .inc | .dec | .mul | .div => .arithmetic
  | .and | .or | .xor | .rol | .rolc | .ror | .rorc | .clr1 | .set1 => .bitwise
  | .ld | .st | .mov | .ldc | .push | .pop | .xch | .ldf | .stf => .storage
  | .jmp | .jmpf | .br | .brf => .jump
  | .bz | .bnz | .bp | .bpc | .bn | .dbnz | .be | .bne => .branch
  | .call | .callf | .callr | .ret | .reti => .call
  | .nop => .nop

/-- The mnemonics with a section of their own (R3); the others are named only (R4). -/
def Mnemonic.documented : Mnemonic → Bool
  | .clr1 | .set1 | .ldf | .stf | .jmp | .jmpf | .br | .brf | .bz | .bnz | .bp
  | .bpc | .bn | .dbnz | .be | .bne | .call | .callf | .callr | .ret | .reti | .nop => false
  | .add | .addc | .sub | .subc | .inc | .dec | .mul | .div | .and | .or | .xor
  | .rol | .rolc | .ror | .rorc | .ld | .st | .mov | .ldc | .push | .pop | .xch => true

/-- Column 'Arithmetic (8)'. -/
def arithmeticWords : List (String × Mnemonic) :=
  [ ("add", .add), ("addc", .addc), ("sub", .sub), ("subc", .subc), ("inc", .inc), ("dec", .dec), ("mul", .mul),
    ("div", .div) ]

/-- Column 'Bitwise (9)'. -/
def bitwiseWords : List (String × Mnemonic) :=
  [ ("and", .and), ("or", .or), ("xor", .xor), ("rol", .rol), ("rolc", .rolc), ("ror", .ror), ("rorc", .rorc),
    ("clr1", .clr1), ("set1", .set1) ]

/-- Column 'Memory/Storage (9)'. -/
def storageWords : List (String × Mnemonic) :=
  [ ("ld", .ld), ("st", .st), ("mov", .mov), ("ldc", .ldc), ("push", .push), ("pop", .pop), ("xch", .xch), ("ldf",
    .ldf), ("stf", .stf) ]

/-- Columns 'Jump (4)', 'Branch (8)', 'Call (5)' and 'NOP (1)'. -/
def controlWords : List (String × Mnemonic) :=
  [ ("jmp", .jmp), ("jmpf", .jmpf), ("br", .br), ("brf", .brf), ("bz", .bz), ("bnz", .bnz), ("bp", .bp), ("bpc",
    .bpc), ("bn", .bn), ("dbnz", .dbnz), ("be", .be), ("bne", .bne), ("call", .call), ("callf", .callf), ("callr",
    .callr), ("ret", .ret), ("reti", .reti), ("nop", .nop) ]

/-- The index table: the 44 mnemonics as they are written. -/
def mnemonicWords : List (String × Mnemonic) := arithmeticWords ++ bitwiseWords ++ storageWords ++ controlWords

/-- A numeric expression (R62): a numeral, a symbol, or a sum. -/
inductive Expr where
  | num (n : Nat)
  | sym (name : String)
  | sum (x y : Expr)
  deriving DecidableEq, Repr

/-- A written argument (R59): direct, immediate or indirect. -/
inductive Arg where
  | direct (e : Expr)
  | immediate (e : Expr)
  | indirect (n : Nat)
  deriving DecidableEq, Repr

/-- A source line (R58): a word and between 0 and 3 arguments. -/
structure SourceLine where
  word : String
  args : List Arg
  deriving DecidableEq, Repr

/-- Why the assembler refuses a line. -/
inductive AsmRefusal where
  /-- the word is one of the 22 named-only mnemonics or no mnemonic at all (R64, R172) -/
  | undocumentedMnemonic (word : String)
  /-- the word is documented and the arguments do not have one of the forms of R58 and R59 -/
  | badSyntax
  /-- the mnemonic has no form with such arguments -/
  | noSuchForm (word : String)
  /-- a symbol without a value (R62) -/
  | undefinedSymbol (name : String)
  /-- a value outside the operand's range (R60) -/
  | outOfRange (value : Nat)
  deriving DecidableEq, Repr

/-- The value of an expression under a table of symbols. -/
def Expr.eval (syms : List (String × Nat)) : Expr → Except AsmRefusal Nat
  | .num n => .ok n
  | .sym name =>
    match syms.lookup name with
    | some n => .ok n
    | none => .error (.undefinedSymbol name)
  | .sum x y =>
    match Expr.eval syms x, Expr.eval syms y with
    | .ok m, .ok n => .ok (m + n)
    | .error e, _ => .error e
    | _, .error e => .error e

/-- An argument with its value, in the widths of the encoding (R52). -/
inductive ArgValue where
  | dir (a : DataAddr)
  | imm (v : Byte)
  | ind (i : IndReg)
  deriving DecidableEq, Repr

/-- The value of an argument, refused outside the operand's range (R60). -/
def Arg.value (syms : List (String × Nat)) : Arg → Except AsmRefusal ArgValue
  | .direct e =>
    match Expr.eval syms e with
    | .error r => .error r
    | .ok n => if inRangeD9 n then .ok (.dir (BitVec.ofNat 9 n)) else .error (.outOfRange n)
  | .immediate e =>
    match Expr.eval syms e with
    | .error r => .error r
    | .ok n => if inRangeI8 n then .ok (.imm (BitVec.ofNat 8 n)) else .error (.outOfRange n)
  | .indirect n => if inRangeRi n then .ok (.ind (BitVec.ofNat 2 n)) else .error (.outOfRange n)

/-- The values of all the arguments, or the first refusal. -/
def argValues (syms : List (String × Nat)) : List Arg → Except AsmRefusal (List ArgValue)
  | [] => .ok []
  | x :: rest =>
    match Arg.value syms x, argValues syms rest with
    | .ok v, .ok vs => .ok (v :: vs)
    | .error e, _ => .error e
    | _, .error e => .error e

/-- The forms of a mnemonic without argument. -/
def formInh (i : Instr) : List ArgValue → Option Instr
  | [] => some i
  | _ => none

/-- The forms `#i8`, `d9`, `@Ri`. -/
def formSrc (imm : Byte → Instr) (dir : DataAddr → Instr) (ind : IndReg → Instr) : List ArgValue → Option Instr
  | [.imm v] => some (imm v)
  | [.dir a] => some (dir a)
  | [.ind i] => some (ind i)
  | _ => none

/-- The forms `d9`, `@Ri`. -/
def formLoc (dir : DataAddr → Instr) (ind : IndReg → Instr) : List ArgValue → Option Instr
  | [.dir a] => some (dir a)
  | [.ind i] => some (ind i)
  | _ => none

/-- The form `d9`. -/
def formDir (dir : DataAddr → Instr) : List ArgValue → Option Instr
  | [.dir a] => some (dir a)
  | _ => none

/-- The forms of `mov`: the source is written first and the destination second (R61). -/
def formMov : List ArgValue → Option Instr
  | [.imm v, .dir a] => some (.movDir v a)
  | [.imm v, .ind i] => some (.movInd v i)
  | _ => none

/-- The form a mnemonic has for its arguments; a named-only mnemonic has none (R4). -/
def instrOf : Mnemonic → List ArgValue → Option Instr
  | .add => formSrc .addImm .addDir .addInd
  | .addc => formSrc .addcImm .addcDir .addcInd
  | .sub => formSrc .subImm .subDir .subInd
  | .subc => formSrc .subcImm .subcDir .subcInd
  | .and => formSrc .andImm .andDir .andInd
  | .or => formSrc .orImm .orDir .orInd
  | .xor => formSrc .xorImm .xorDir .xorInd
  | .inc => formLoc .incDir .incInd
  | .dec => formLoc .decDir .decInd
  | .ld => formLoc .ldDir .ldInd
  | .st => formLoc .stDir .stInd
  | .xch => formLoc .xchDir .xchInd
  | .mul => formInh .mul
  | .div => formInh .div
  | .rol => formInh .rol
  | .rolc => formInh .rolc
  | .ror => formInh .ror
  | .rorc => formInh .rorc
  | .ldc => formInh .ldc
  | .mov => formMov
  | .push => formDir .pushDir
  | .pop => formDir .popDir
  | .clr1 | .set1 | .ldf | .stf | .jmp | .jmpf | .br | .brf | .bz | .bnz | .bp
  | .bpc | .bn | .dbnz | .be | .bne | .call | .callf | .callr | .ret | .reti | .nop => fun _ => none

/-- The mnemonic a word is, if it is one of the 22 documented ones (R3, R64). -/
def documentedMnemonic (word : String) : Option Mnemonic := (mnemonicWords.lookup word).filter Mnemonic.documented

/-- A source line assembled under a table of symbols. The word is looked at first, whatever the arguments (R64, R172). -/
def assembleLine (syms : List (String × Nat)) (l : SourceLine) : Except AsmRefusal Instr :=
  match documentedMnemonic l.word with
  | none => .error (.undocumentedMnemonic l.word)
  | some m =>
    match argValues syms l.args with
    | .error e => .error e
    | .ok vs =>
      match instrOf m vs with
      | some i => .ok i
      | none => .error (.noSuchForm l.word)

/-- The bytes of a sequence of lines at rising addresses (R40), the first line being number `n`, or the number of the first
refused line and why (R64). `bytesOf` assembles one line. -/
def assembleEach {α : Type} (bytesOf : α → Except AsmRefusal (List Byte)) (n : Nat) :
    List α → Except (Nat × AsmRefusal) (List Byte)
  | [] => .ok []
  | l :: rest =>
    match bytesOf l with
    | .error e => .error (n, e)
    | .ok bytes =>
      match assembleEach bytesOf (n + 1) rest with
      | .error e => .error e
      | .ok more => .ok (bytes ++ more)

/-- The bytes of a sequence of source lines, the first being number `n`. -/
def assembleLines (syms : List (String × Nat)) (n : Nat) (lines : List SourceLine) : Except (Nat × AsmRefusal) (List Byte) :=
  assembleEach (fun l => (assembleLine syms l).map encode) n lines

/-- The value of a hexadecimal digit. DESIGN CHOICE (log 23): either case, on which R62 is silent. -/
def hexDigit (ch : Char) : Option Nat :=
  if '0' ≤ ch ∧ ch ≤ '9' then some (ch.toNat - 48)
  else if 'a' ≤ ch ∧ ch ≤ 'f' then some (ch.toNat - 87)
  else if 'A' ≤ ch ∧ ch ≤ 'F' then some (ch.toNat - 55)
  else none

/-- Digits read in a base, after the number read so far. -/
def readDigits (base acc : Nat) : List Char → Option Nat
  | [] => some acc
  | ch :: rest =>
    match hexDigit ch with
    | some d => if d < base then readDigits base (acc * base + d) rest else none
    | none => none

/-- A character a symbol may begin with. DESIGN CHOICE (log 23), since R62 defines no symbol: an ASCII letter or `_`. -/
def symbolStart (ch : Char) : Bool := ch.isAlpha || ch == '_'

/-- One term of an expression (R62; `$` prefixes a hexadecimal numeral, D26). DESIGN CHOICE (log 23): after its first character
a symbol holds ASCII letters, digits and `_`. -/
def readTerm : List Char → Option Expr
  | [] => none
  | '$' :: d :: rest => (readDigits 16 0 (d :: rest)).map .num
  | ch :: rest =>
    if symbolStart ch then
      if rest.all fun x => symbolStart x || x.isDigit then some (.sym (String.ofList (ch :: rest))) else none
    else (readDigits 10 0 (ch :: rest)).map .num

/-- Text cut at each separator; there is always at least one piece. -/
def cutAt (sep : Char) : List Char → List (List Char)
  | [] => [[]]
  | ch :: rest =>
    if ch = sep then [] :: cutAt sep rest
    else
      match cutAt sep rest with
      | [] => [[ch]]
      | piece :: pieces => (ch :: piece) :: pieces

/-- A character between words. DESIGN CHOICE (log 23): a space or a tab, on which R58 is silent. -/
def isBlank (ch : Char) : Bool := ch == ' ' || ch == '\t'

/-- Text without the blanks at its ends. -/
def trimBlanks (t : List Char) : List Char := ((t.dropWhile isBlank).reverse.dropWhile isBlank).reverse

/-- A sum of terms (R62). DESIGN CHOICE (log 23), since R62 defines no grammar: blanks may stand or be missing at both ends of each
term, so round `+` and after `#`, and stand nowhere inside a term. -/
def readSum : List (List Char) → Option Expr
  | [] => none
  | [t] => readTerm (trimBlanks t)
  | t :: rest =>
    match readTerm (trimBlanks t), readSum rest with
    | some x, some y => some (.sum x y)
    | _, _ => none

/-- One argument (R59). DESIGN CHOICE (log 23): after `@` no blank may stand. -/
def readArg : List Char → Option Arg
  | '#' :: rest => (readSum (cutAt '+' rest)).map .immediate
  | ['@', 'R', d] => (readDigits 10 0 [d]).map .indirect
  | '@' :: _ => none
  | t => (readSum (cutAt '+' t)).map .direct

/-- All the arguments, or none where one cannot be read. DESIGN CHOICE (log 23), since R58 only has them separated by commas: blanks
may stand or be missing on both sides of a comma. -/
def readArgs : List (List Char) → Option (List Arg)
  | [] => some []
  | t :: rest =>
    match readArg (trimBlanks t), readArgs rest with
    | some x, some xs => some (x :: xs)
    | _, _ => none

/-- The word of a line of text (R58): what stands before the first blank. -/
def lineWord (text : List Char) : String := String.ofList ((trimBlanks text).takeWhile fun ch => !isBlank ch)

/-- The arguments of a line of text, separated by commas, between 0 and 3 (R58); none where they cannot be read. -/
def lineArgs (text : List Char) : Option (List Arg) :=
  match trimBlanks ((trimBlanks text).dropWhile fun ch => !isBlank ch) with
  | [] => some []
  | tail => (readArgs (cutAt ',' tail)).filter fun args => decide (args.length ≤ 3)

/-- A line of text assembled under a table of symbols (R58 to R64). The word is looked at first: a line that uses a named-only
mnemonic or an unknown word is refused by that word, whether or not its arguments can be read (R64, R172). -/
def assembleChars (syms : List (String × Nat)) (text : List Char) : Except AsmRefusal Instr :=
  match documentedMnemonic (lineWord text) with
  | none => .error (.undocumentedMnemonic (lineWord text))
  | some _ =>
    match lineArgs text with
    | none => .error .badSyntax
    | some args => assembleLine syms ⟨lineWord text, args⟩

/-- A line given as a string. -/
def assembleText (syms : List (String × Nat)) (text : String) : Except AsmRefusal Instr := assembleChars syms text.toList

/-- The bytes of a line of text. DESIGN CHOICE (log 23): a line of blanks is no instruction and has none. -/
def lineBytes (syms : List (String × Nat)) (text : List Char) : Except AsmRefusal (List Byte) :=
  if text.all isBlank then .ok [] else (assembleChars syms text).map encode

/-- The bytes of a source text, each instruction on its own line (R58), or the number of its first refused line, counted from 1,
and why (R64). -/
def assembleSource (syms : List (String × Nat)) (text : String) : Except (Nat × AsmRefusal) (List Byte) :=
  assembleEach (lineBytes syms) 1 (cutAt '\n' text.toList)

/-- The word a mnemonic is written with. -/
def mnemonicWord (m : Mnemonic) : String :=
  match mnemonicWords.find? fun w => decide (w.2 = m) with
  | some w => w.1
  | none => ""

/-- A direct argument that writes a data address as a numeral. -/
def argDir (a : DataAddr) : Arg := .direct (.num a.toNat)

/-- An immediate argument that writes a byte as a numeral. -/
def argImm (v : Byte) : Arg := .immediate (.num v.toNat)

/-- An indirect argument. -/
def argInd (i : IndReg) : Arg := .indirect i.toNat

/-- The arguments an instruction is written with (R58 to R61). -/
def Instr.args : Instr → List Arg
  | .addImm v => [argImm v]
  | .addDir a => [argDir a]
  | .addInd i => [argInd i]
  | .addcImm v => [argImm v]
  | .addcDir a => [argDir a]
  | .addcInd i => [argInd i]
  | .subImm v => [argImm v]
  | .subDir a => [argDir a]
  | .subInd i => [argInd i]
  | .subcImm v => [argImm v]
  | .subcDir a => [argDir a]
  | .subcInd i => [argInd i]
  | .incDir a => [argDir a]
  | .incInd i => [argInd i]
  | .decDir a => [argDir a]
  | .decInd i => [argInd i]
  | .mul => []
  | .div => []
  | .andImm v => [argImm v]
  | .andDir a => [argDir a]
  | .andInd i => [argInd i]
  | .orImm v => [argImm v]
  | .orDir a => [argDir a]
  | .orInd i => [argInd i]
  | .xorImm v => [argImm v]
  | .xorDir a => [argDir a]
  | .xorInd i => [argInd i]
  | .rol => []
  | .rolc => []
  | .ror => []
  | .rorc => []
  | .ldDir a => [argDir a]
  | .ldInd i => [argInd i]
  | .stDir a => [argDir a]
  | .stInd i => [argInd i]
  | .movDir v a => [argImm v, argDir a]
  | .movInd v i => [argImm v, argInd i]
  | .ldc => []
  | .pushDir a => [argDir a]
  | .popDir a => [argDir a]
  | .xchDir a => [argDir a]
  | .xchInd i => [argInd i]

/-- The source line of an instruction. -/
def sourceOf (i : Instr) : SourceLine := ⟨mnemonicWord i.mnemonic, Instr.args i⟩

end Sys2Proof.Machine
end

