-- ==== Sys2Proof/Machine/Run.lean ====
section
/-! DEFINITION. The state that a run leaves behind, with R22's mark. A refusal ends the run (R172) and a step's outcome carries no
state for it, so the mark is set here (log 5). -/

namespace Sys2Proof.Machine

/-- The state after at most `n` steps: a refusal sets `refused` and ends the run (R22, R172); at `halt_pc` the run is over as it
stands (R193). -/
def runMarked : Nat → State → State
  | 0, s => s
  | n + 1, s =>
    match step s with
    | .next t => runMarked n t
    | .fault _ => s
    | .refused _ => s.markRefused

end Sys2Proof.Machine
end

