-- ==== Sys2Proof/Machine/Timing.lean ====
section
/-! DEFINITION. The cycle counts of the source's tables (R196). They are transcribed only: the model has no clock and nothing
depends on them (R177, D28). -/

namespace Sys2Proof

/-- The "Cycles" column of each form's table (R196). -/
def Instr.cycles : Instr → Nat
  | .addImm _ => 1
  | .addDir _ => 1
  | .addInd _ => 1
  | .addcImm _ => 1
  | .addcDir _ => 1
  | .addcInd _ => 1
  | .subImm _ => 1
  | .subDir _ => 1
  | .subInd _ => 1
  | .subcImm _ => 1
  | .subcDir _ => 1
  | .subcInd _ => 1
  | .incDir _ => 1
  | .incInd _ => 1
  | .decDir _ => 1
  | .decInd _ => 1
  | .mul => 7
  | .div => 7
  | .andImm _ => 1
  | .andDir _ => 1
  | .andInd _ => 1
  | .orImm _ => 1
  | .orDir _ => 1
  | .orInd _ => 1
  | .xorImm _ => 1
  | .xorDir _ => 1
  | .xorInd _ => 1
  | .rol => 1
  | .rolc => 1
  | .ror => 1
  | .rorc => 1
  | .ldDir _ => 1
  | .ldInd _ => 1
  | .stDir _ => 1
  | .stInd _ => 1
  | .movDir _ _ => 2
  | .movInd _ _ => 1
  | .ldc => 2
  | .pushDir _ => 2
  | .popDir _ => 2
  | .xchDir _ => 1
  | .xchInd _ => 1

end Sys2Proof
end

