-- ==== Sys2Proof/Safety.lean ====
section
/-! DEFINITION. What counts as a well-formed state and as a run that ends normally (R193, R195). -/

namespace Sys2Proof.Machine

/-- The form that every state of a run keeps: both memories canonical and inside their address spaces (R19, R20), launch
parameters the spec admits (R14, R32), and the run not refused (R22, R25). -/
abbrev State.Inv (s : State) : Prop :=
  Memory.wf 512 s.data ∧ Memory.wf 65536 s.rom ∧ s.params.wellFormed = true ∧ s.refused = false

/-- A normal end (R193): after `n` steps the run stands at `halt_pc` and nothing was refused. The premises `NoInterrupts` and
`NoDevices` of R195 speak of what the model does not hold, so a claim about the chip states them beside this. -/
def EndsNormally (n : Nat) (s t : State) : Prop :=
  Host.Core.run Sys2Proof.core n s = .next t ∧ t.params.haltPc = some t.pc ∧ t.refused = false

end Sys2Proof.Machine
end

