-- ==== Sys2Proof/Certificates/Slice0/Obligations.lean ====
section
/-! DEFINITION. The statements for the provers, and the few predicates they are written with. A statement that rests on a decision
of the spec or on an inference it marks as its own says so in its title. -/

namespace Sys2Proof.Machine

/-- The instruction answers a next state, and that state has the property. -/
def Completes (i : Instr) (s : State) (post : State → Prop) : Prop := ∃ t, exec i s = .next t ∧ post t

/-- The parameters of the run and the mark of a refused run are unchanged. -/
def LaunchKept (s t : State) : Prop := t.rom = s.rom ∧ t.params = s.params ∧ t.refused = s.refused

/-- Every cell of the data space reads as before. -/
def CellsKept (s t : State) : Prop := ∀ k : Nat, t.data.read k = s.data.read k

/-- `pc` is advanced by a length, and the parameters of the run are unchanged. -/
def Advanced (len : Nat) (s t : State) : Prop := t.pc = s.pc + BitVec.ofNat 16 len ∧ LaunchKept s t

/-- The frame of a form that stores nothing: only the listed registers may change, every cell reads as before, `pc` advances. -/
def RegisterFrame (written : List Reg) (len : Nat) (s t : State) : Prop :=
  (∀ r, r ∉ written → t.readReg r = s.readReg r) ∧ CellsKept s t ∧ Advanced len s t

/-- Only the listed bits of `psw` may change. -/
def PswBitsKeptBut (written : List (Fin 8)) (s t : State) : Prop :=
  ∀ j : Fin 8, j ∉ written → t.psw.getLsbD j.val = s.psw.getLsbD j.val

/-- The frame of the adders: `acc` and the three flags. -/
def AdderFrame (len : Nat) (s t : State) : Prop :=
  RegisterFrame [.acc, .psw] len s t ∧
  PswBitsKeptBut [s.params.pswLayout.posCy, s.params.pswLayout.posAc, s.params.pswLayout.posOv] s t

/-- `v` is stored at data address `a`, which may be a register; a register that is neither listed nor at `a` is unchanged, and so
is every cell but the one at `a`. -/
def Stored (written : List Reg) (a : DataAddr) (v : Byte) (s t : State) : Prop :=
  t.memRead a = v ∧
  (∀ r, r ∉ written → s.sfrAt a ≠ some r → t.readReg r = s.readReg r) ∧
  (∀ k : Nat, ¬ (s.sfrAt a = none ∧ k = a.toNat) → t.data.read k = s.data.read k)

/-- The three flags are unchanged. -/
def FlagsKept (s t : State) : Prop := t.cy = s.cy ∧ t.ac = s.ac ∧ t.ov = s.ov

/-- The sum of `acc`, an operand and a carry, and its flags, in the words of R71. -/
def AddEffect (x : Byte) (k : Nat) (s t : State) : Prop :=
  t.acc.toNat = (s.acc.toNat + x.toNat + k) % 256 ∧
  (t.cy = true ↔ 255 < s.acc.toNat + x.toNat + k) ∧
  (t.ac = true ↔ 15 < s.acc.toNat % 16 + x.toNat % 16 + k) ∧
  (t.ov = true ↔ s.acc.toInt + x.toInt + k < -128 ∨ 127 < s.acc.toInt + x.toInt + k)

/-- The difference of `acc`, an operand and a borrow, and its flags, in the words of R72. -/
def SubEffect (x : Byte) (k : Nat) (s t : State) : Prop :=
  (t.acc.toNat : Int) = ((s.acc.toNat : Int) - x.toNat - k) % 256 ∧
  (t.cy = true ↔ s.acc.toNat < x.toNat + k) ∧
  (t.ac = true ↔ s.acc.toNat % 16 < x.toNat % 16 + k) ∧
  (t.ov = true ↔ s.acc.toInt - x.toInt - k < -128 ∨ 127 < s.acc.toInt - x.toInt - k)

/-- An instruction's row of its form table: its bytes, their number, its cycle count. -/
def FormOf (i : Instr) (bytes : List Byte) (cycles : Nat) : Prop :=
  encode i = bytes ∧ i.length = bytes.length ∧ i.cycles = cycles

/-- The 16-bit argument of `mul` and `div` as a number. -/
def argument16 (s : State) : Nat := s.acc.toNat * 256 + s.c.toNat

/-- A step starts here: the run is neither refused nor ended (R25). -/
def Ready (s : State) : Prop := s.refused = false ∧ s.params.haltPc ≠ some s.pc

/-- The 160 first-byte values of R56, as that rule lists them. -/
def undocumentedByte (b : Byte) : Bool :=
  [0x00, 0x01, 0x10, 0x11, 0x20, 0x21, 0x80, 0x90, 0xA0, 0xB0].contains b.toNat ||
  [(0x08, 0x0F), (0x18, 0x1F), (0x28, 0x2F), (0x31, 0x3F), (0x41, 0x4F), (0x50, 0x5F), (0x68, 0x6F), (0x78, 0x7F),
    (0x88, 0x8F), (0x98, 0x9F), (0xA8, 0xAF), (0xB8, 0xBF), (0xC8, 0xCF), (0xD8, 0xDF), (0xE8, 0xEF),
    (0xF8, 0xFF)].any fun r => decide (r.1 ≤ b.toNat ∧ b.toNat ≤ r.2)

/-- The 22 named-only mnemonics of R4. -/
def namedOnlyWords : List String :=
  ["clr1", "set1", "ldf", "stf", "jmp", "jmpf", "br", "brf", "bz", "bnz", "bp", "bpc", "bn", "dbnz", "be", "bne", "call",
    "callf", "callr", "ret", "reti", "nop"]

/-- The data address an instruction stores to, if it stores: the destination operand, or the stack cell of a push. -/
def storeAddr (s : State) : Instr → Option DataAddr
  | .incDir a | .decDir a | .stDir a | .movDir _ a | .popDir a | .xchDir a => some a
  | .incInd i | .decInd i | .stInd i | .movInd _ i | .xchInd i => some (s.indAddr i)
  | .pushDir _ => some (stackAddr (s.sp + 1))
  | _ => none

/-- The registers R11's table says a mnemonic writes by itself, `psw` standing for any flag. -/
def tabledWrites : Mnemonic → List Reg
  | .add | .addc | .sub | .subc | .rolc | .rorc => [.acc, .psw]
  | .mul | .div => [.acc, .b, .c, .psw]
  | .and | .or | .xor | .rol | .ror | .ld | .ldc | .xch => [.acc]
  | .push | .pop => [.sp]
  | _ => []

/-- The `d9` operand of an instruction. -/
def dataOperand : Instr → Option DataAddr
  | .addDir a | .addcDir a | .subDir a | .subcDir a | .incDir a | .decDir a | .andDir a | .orDir a | .xorDir a => some a
  | .ldDir a | .stDir a | .movDir _ a | .pushDir a | .popDir a | .xchDir a => some a
  | _ => none

/-- The `i8` operand of an instruction. -/
def immediateOperand : Instr → Option Byte
  | .addImm v | .addcImm v | .subImm v | .subcImm v | .andImm v | .orImm v | .xorImm v | .movDir v _ | .movInd v _ => some v
  | _ => none

/-- The `@Ri` operand of an instruction. -/
def indirectOperand : Instr → Option IndReg
  | .addInd i | .addcInd i | .subInd i | .subcInd i | .incInd i | .decInd i | .andInd i | .orInd i | .xorInd i => some i
  | .ldInd i | .stInd i | .movInd _ i | .xchInd i => some i
  | _ => none

end Sys2Proof.Machine

open Sys2Proof Sys2Proof.Machine

/-! Encoding -/

/-- Every instruction, with every operand at every value, is read back from its encoding, whatever follows it (derived from R51,
R52, R57). -/
def Obligations.DecodeReadsBackEveryEncoding : Prop :=
  ∀ (i : Instr) (rest : List Byte), decode (encode i ++ rest) = .ok (i, rest)

/-- Bytes that decode to an instruction are that instruction's encoding: no two byte strings mean the same (derived from R55,
R57). -/
def Obligations.DecodedBytesAreTheEncoding : Prop :=
  ∀ (bytes rest : List Byte) (i : Instr), decode bytes = .ok (i, rest) → encode i ++ rest = bytes

/-- No two rows of the opcode table claim one first byte (R55, which the spec derives from R54). -/
def Obligations.NoFirstByteHasTwoRows : Prop :=
  opcodeTable.Pairwise fun x y => ∀ b0 : Byte, ¬ (b0 &&& x.mask = x.pattern ∧ b0 &&& y.mask = y.pattern)

/-- The decoder refuses exactly the 160 first bytes of R56, whatever follows, and names the byte. -/
def Obligations.DecoderRefusesTheListedFirstBytes : Prop :=
  ∀ (b0 : Byte) (rest : List Byte), decode (b0 :: rest) = .error (.undocumentedOpcode b0) ↔ undocumentedByte b0 = true

/-- The operand fields of a decoded instruction are the bits R52 names, none extended or scaled: `d9` is bit 0 of byte 0 above
byte 1, `i` is the low two bits of byte 0, `i8` is the last byte of the instruction. -/
def Obligations.FieldsAreAssembledFromTheBytes : Prop :=
  ∀ (b0 b1 b2 : Byte) (i : Instr) (rest : List Byte), decode [b0, b1, b2] = .ok (i, rest) →
    (∀ a, dataOperand i = some a → a.toNat = (b0.toNat % 2) * 256 + b1.toNat) ∧
    (∀ r, indirectOperand i = some r → r.toNat = b0.toNat % 4) ∧
    (∀ v, immediateOperand i = some v → ([b0, b1, b2].take i.length).getLast? = some v)

/-- Words written out from the spec's bit patterns decode to the forms they stand for. -/
def Obligations.SampleWordsDecode : Prop :=
  decode [0x81, 0x5A] = .ok (.addImm 0x5A, []) ∧ decode [0x93, 0xA3] = .ok (.addcDir 0x1A3, []) ∧
  decode [0xB6] = .ok (.subcInd 2, []) ∧ decode [0x23, 0xDC, 0xFE] = .ok (.movDir 0xFE 0x1DC, []) ∧
  decode [0x27, 0x01] = .ok (.movInd 0x01 3, []) ∧ decode [0x71, 0x01] = .ok (.popDir 0x101, []) ∧
  decode [0xD0] = .ok (.rorc, []) ∧ decode [0xC1] = .ok (.ldc, [])

/-! Memory and parameters -/

/-- Under every map in force `sfr_map` is injective, and every injective partial function from addresses to registers is some
map: nothing the spec allows is shut out (R32). -/
def Obligations.SfrMapIsAnyPartialInjection : Prop :=
  (∀ (m : SfrMap) (a a' : DataAddr) (r : Reg), SfrMap.lookup m a = some r → SfrMap.lookup m a' = some r → a = a') ∧
  (∀ f : DataAddr → Option Reg, (∀ a a' r, f a = some r → f a' = some r → a = a') →
    ∃ m : SfrMap, ∀ a, SfrMap.lookup m a = f a)

/-- A read of a data address gives the byte most recently written to it, and a write leaves every other address as it reads,
registers at mapped addresses included (the spec's decision D20, R44). -/
def Obligations.ReadGivesTheLatestWrite : Prop :=
  ∀ (s : State) (a a' : DataAddr) (v : Byte),
    (s.memWrite a v).memRead a' = if a' = a then v else s.memRead a'

/-! Flags -/

/-- The overflow flag of the sum is the bit formula of R71, and the result with its carry is the sum (decisions D11, D12). -/
def Obligations.AddFlagsAgreeWithTheBitFormula : Prop :=
  ∀ (a x : Byte) (k : Bool),
    (addFlags a x k).ov = ((a ^^^ (addFlags a x k).res) &&& (x ^^^ (addFlags a x k).res)).getLsbD 7 ∧
    (addFlags a x k).res.toNat + 256 * (addFlags a x k).cy.toNat = a.toNat + x.toNat + k.toNat

/-- The overflow flag of the difference is the bit formula of R72, and the result with its borrow is the difference (decisions
D11, D13). -/
def Obligations.SubFlagsAgreeWithTheBitFormula : Prop :=
  ∀ (a x : Byte) (k : Bool),
    (subFlags a x k).ov = ((a ^^^ x) &&& (a ^^^ (subFlags a x k).res)).getLsbD 7 ∧
    (subFlags a x k).res.toNat + x.toNat + k.toNat = a.toNat + 256 * (subFlags a x k).cy.toNat

/-! Arithmetic family -/

/-- `add` in its three forms: result, flags and frame (conditions of the flags: the spec's decisions D11, D12; log 10). -/
def Obligations.AddCompletes : Prop :=
  ∀ s : State, s.params.pswLayout.wellFormed = true →
    (∀ v, Completes (.addImm v) s fun t => AddEffect v 0 s t ∧ AdderFrame 2 s t) ∧
    (∀ a, Completes (.addDir a) s fun t => AddEffect (s.memRead a) 0 s t ∧ AdderFrame 2 s t) ∧
    (∀ i, Completes (.addInd i) s fun t => AddEffect (s.memRead (s.indAddr i)) 0 s t ∧ AdderFrame 1 s t)

/-- `addc` in its three forms, with the carry before the instruction (flag conditions: decisions D11, D12; log 10). -/
def Obligations.AddcCompletes : Prop :=
  ∀ s : State, s.params.pswLayout.wellFormed = true →
    (∀ v, Completes (.addcImm v) s fun t => AddEffect v s.cy.toNat s t ∧ AdderFrame 2 s t) ∧
    (∀ a, Completes (.addcDir a) s fun t => AddEffect (s.memRead a) s.cy.toNat s t ∧ AdderFrame 2 s t) ∧
    (∀ i, Completes (.addcInd i) s fun t => AddEffect (s.memRead (s.indAddr i)) s.cy.toNat s t ∧ AdderFrame 1 s t)

/-- `sub` in its three forms (flag conditions: decisions D11, D13; log 10). -/
def Obligations.SubCompletes : Prop :=
  ∀ s : State, s.params.pswLayout.wellFormed = true →
    (∀ v, Completes (.subImm v) s fun t => SubEffect v 0 s t ∧ AdderFrame 2 s t) ∧
    (∀ a, Completes (.subDir a) s fun t => SubEffect (s.memRead a) 0 s t ∧ AdderFrame 2 s t) ∧
    (∀ i, Completes (.subInd i) s fun t => SubEffect (s.memRead (s.indAddr i)) 0 s t ∧ AdderFrame 1 s t)

/-- `subc` in its three forms, with the carry before the instruction as borrow (flag conditions: decisions D11, D13; log 10). -/
def Obligations.SubcCompletes : Prop :=
  ∀ s : State, s.params.pswLayout.wellFormed = true →
    (∀ v, Completes (.subcImm v) s fun t => SubEffect v s.cy.toNat s t ∧ AdderFrame 2 s t) ∧
    (∀ a, Completes (.subcDir a) s fun t => SubEffect (s.memRead a) s.cy.toNat s t ∧ AdderFrame 2 s t) ∧
    (∀ i, Completes (.subcInd i) s fun t => SubEffect (s.memRead (s.indAddr i)) s.cy.toNat s t ∧ AdderFrame 1 s t)

/-- `inc` and `dec` change one cell by one modulo 256 (decision D11) and no flag, unless the cell is `psw` itself. -/
def Obligations.IncDecComplete : Prop :=
  ∀ s : State,
    (∀ a, Completes (.incDir a) s fun t => Stored [] a (BitVec.ofNat 8 (((s.memRead a).toNat + 1) % 256)) s t ∧
      (s.sfrAt a ≠ some .psw → FlagsKept s t) ∧ Advanced 2 s t) ∧
    (∀ i, Completes (.incInd i) s fun t =>
      Stored [] (s.indAddr i) (BitVec.ofNat 8 (((s.memRead (s.indAddr i)).toNat + 1) % 256)) s t ∧
      (s.sfrAt (s.indAddr i) ≠ some .psw → FlagsKept s t) ∧ Advanced 1 s t) ∧
    (∀ a, Completes (.decDir a) s fun t => Stored [] a (BitVec.ofNat 8 (((s.memRead a).toNat + 255) % 256)) s t ∧
      (s.sfrAt a ≠ some .psw → FlagsKept s t) ∧ Advanced 2 s t) ∧
    (∀ i, Completes (.decInd i) s fun t =>
      Stored [] (s.indAddr i) (BitVec.ofNat 8 (((s.memRead (s.indAddr i)).toNat + 255) % 256)) s t ∧
      (s.sfrAt (s.indAddr i) ≠ some .psw → FlagsKept s t) ∧ Advanced 1 s t)

/-- `mul` (R79, unsigned by decision D31): the 24-bit product in `b`, `acc`, `c`; `cy` cleared, `ov` iff over 16 bits. -/
def Obligations.MulCompletes : Prop :=
  ∀ s : State, s.params.pswLayout.wellFormed = true → Completes .mul s fun t =>
    t.b.toNat * 65536 + t.acc.toNat * 256 + t.c.toNat = argument16 s * s.b.toNat ∧
    t.cy = false ∧ (t.ov = true ↔ 65535 < argument16 s * s.b.toNat) ∧ t.ac = s.ac ∧
    RegisterFrame [.acc, .b, .c, .psw] 1 s t ∧
    PswBitsKeptBut [s.params.pswLayout.posCy, s.params.pswLayout.posOv] s t

/-- `div` by a divisor that is not 0 (R80, unsigned by decision D31): quotient, remainder; `cy` cleared, `ov` iff the remainder
is 0. -/
def Obligations.DivCompletes : Prop :=
  ∀ s : State, s.params.pswLayout.wellFormed = true → s.b ≠ 0 → Completes .div s fun t =>
    (t.acc.toNat * 256 + t.c.toNat) * s.b.toNat + t.b.toNat = argument16 s ∧ t.b.toNat < s.b.toNat ∧
    t.cy = false ∧ (t.ov = true ↔ t.b = 0) ∧ t.ac = s.ac ∧
    RegisterFrame [.acc, .b, .c, .psw] 1 s t ∧
    PswBitsKeptBut [s.params.pswLayout.posCy, s.params.pswLayout.posOv] s t

/-- `div` by 0 (R81, decision D14; log 7): the machine goes on with the free value `div0` of the operands; `cy` is cleared and `ac`
unchanged. It holds whatever `div0` is. -/
def Obligations.DivByZeroCompletes : Prop :=
  ∀ s : State, s.params.pswLayout.wellFormed = true → s.b = 0 → Completes .div s fun t =>
    t.acc = (Config.div0 s.acc s.c).acc ∧ t.c = (Config.div0 s.acc s.c).c ∧ t.b = (Config.div0 s.acc s.c).b ∧
    t.ov = (Config.div0 s.acc s.c).ov ∧ t.cy = false ∧ t.ac = s.ac ∧
    RegisterFrame [.acc, .b, .c, .psw] 1 s t ∧
    PswBitsKeptBut [s.params.pswLayout.posCy, s.params.pswLayout.posOv] s t

/-- `add`, `sub` with an immediate, `mul` and `div` do not read the incoming carry: a state that differs in `cy` alone gives the
same outcome (R73, R75, R79, R80, R81; what they write is decided by D11 to D14). -/
def Obligations.IncomingCarryIsNotRead : Prop :=
  ∀ (s : State) (x : Bool) (v : Byte),
    exec (.addImm v) (s.putCy x) = exec (.addImm v) s ∧ exec (.subImm v) (s.putCy x) = exec (.subImm v) s ∧
    exec .mul (s.putCy x) = exec .mul s ∧ exec .div (s.putCy x) = exec .div s

/-! Bitwise family -/

/-- `and` in its three forms, bit by bit, into `acc` (destination: decision D32). -/
def Obligations.AndCompletes : Prop :=
  ∀ s : State,
    (∀ v, Completes (.andImm v) s fun t =>
      (∀ j, t.acc.getLsbD j = (s.acc.getLsbD j && v.getLsbD j)) ∧ RegisterFrame [.acc] 2 s t) ∧
    (∀ a, Completes (.andDir a) s fun t =>
      (∀ j, t.acc.getLsbD j = (s.acc.getLsbD j && (s.memRead a).getLsbD j)) ∧ RegisterFrame [.acc] 2 s t) ∧
    (∀ i, Completes (.andInd i) s fun t =>
      (∀ j, t.acc.getLsbD j = (s.acc.getLsbD j && (s.memRead (s.indAddr i)).getLsbD j)) ∧ RegisterFrame [.acc] 1 s t)

/-- `or` in its three forms, bit by bit, into `acc` (destination: decision D32). -/
def Obligations.OrCompletes : Prop :=
  ∀ s : State,
    (∀ v, Completes (.orImm v) s fun t =>
      (∀ j, t.acc.getLsbD j = (s.acc.getLsbD j || v.getLsbD j)) ∧ RegisterFrame [.acc] 2 s t) ∧
    (∀ a, Completes (.orDir a) s fun t =>
      (∀ j, t.acc.getLsbD j = (s.acc.getLsbD j || (s.memRead a).getLsbD j)) ∧ RegisterFrame [.acc] 2 s t) ∧
    (∀ i, Completes (.orInd i) s fun t =>
      (∀ j, t.acc.getLsbD j = (s.acc.getLsbD j || (s.memRead (s.indAddr i)).getLsbD j)) ∧ RegisterFrame [.acc] 1 s t)

/-- `xor` in its three forms, bit by bit, into `acc` (destination: decision D32). -/
def Obligations.XorCompletes : Prop :=
  ∀ s : State,
    (∀ v, Completes (.xorImm v) s fun t =>
      (∀ j, t.acc.getLsbD j = (s.acc.getLsbD j ^^ v.getLsbD j)) ∧ RegisterFrame [.acc] 2 s t) ∧
    (∀ a, Completes (.xorDir a) s fun t =>
      (∀ j, t.acc.getLsbD j = (s.acc.getLsbD j ^^ (s.memRead a).getLsbD j)) ∧ RegisterFrame [.acc] 2 s t) ∧
    (∀ i, Completes (.xorInd i) s fun t =>
      (∀ j, t.acc.getLsbD j = (s.acc.getLsbD j ^^ (s.memRead (s.indAddr i)).getLsbD j)) ∧ RegisterFrame [.acc] 1 s t)

/-- `rol`, its form and its effect (R94): every bit moves one to the left, the top bit wraps around; no flag and nothing but
`acc` changes. -/
def Obligations.RolCompletes : Prop :=
  FormOf .rol [0xE0] 1 ∧ ∀ s : State, Completes .rol s fun t =>
    (∀ j : Fin 8, t.acc.getLsbD j.val = s.acc.getLsbD ((j.val + 7) % 8)) ∧ RegisterFrame [.acc] 1 s t

/-- `ror`, its form and its effect (R96): every bit moves one to the right, the bottom bit wraps around; no flag and nothing
but `acc` changes. -/
def Obligations.RorCompletes : Prop :=
  FormOf .ror [0xC0] 1 ∧ ∀ s : State, Completes .ror s fun t =>
    (∀ j : Fin 8, t.acc.getLsbD j.val = s.acc.getLsbD ((j.val + 1) % 8)) ∧ RegisterFrame [.acc] 1 s t

/-- `rolc`, its form and its effect (R95): left through `cy`; `ac`, `ov` and the rest of `psw` are unchanged. -/
def Obligations.RolcCompletes : Prop :=
  FormOf .rolc [0xF0] 1 ∧ ∀ s : State, s.params.pswLayout.wellFormed = true → Completes .rolc s fun t =>
    (∀ j : Fin 8, t.acc.getLsbD j.val = if j.val = 0 then s.cy else s.acc.getLsbD (j.val - 1)) ∧
    t.cy = s.acc.getLsbD 7 ∧ t.ac = s.ac ∧ t.ov = s.ov ∧
    RegisterFrame [.acc, .psw] 1 s t ∧ PswBitsKeptBut [s.params.pswLayout.posCy] s t

/-- `rorc`, its form and its effect (R97): right through `cy`; `ac`, `ov` and the rest of `psw` are unchanged. -/
def Obligations.RorcCompletes : Prop :=
  FormOf .rorc [0xD0] 1 ∧ ∀ s : State, s.params.pswLayout.wellFormed = true → Completes .rorc s fun t =>
    (∀ j : Fin 8, t.acc.getLsbD j.val = if j.val = 7 then s.cy else s.acc.getLsbD (j.val + 1)) ∧
    t.cy = s.acc.getLsbD 0 ∧ t.ac = s.ac ∧ t.ov = s.ov ∧
    RegisterFrame [.acc, .psw] 1 s t ∧ PswBitsKeptBut [s.params.pswLayout.posCy] s t

/-- `ror` undoes `rol` and `rorc` undoes `rolc`: afterwards the whole state is as before but for `pc` (corner cases of R96, R97). -/
def Obligations.RightRotateUndoesLeftRotate : Prop :=
  ∀ s : State,
    (∃ t, exec .rol s = .next t ∧ exec .ror t = .next (s.advance 2)) ∧
    (∃ t, exec .rolc s = .next t ∧ exec .rorc t = .next (s.advance 2))

/-! Memory/Storage family -/

/-- `ld`, its forms and its effect (R111): `acc` takes what the address reads; nothing else changes. -/
def Obligations.LdCompletes : Prop :=
  (∀ a : DataAddr, FormOf (.ldDir a) [0b0000001#7 ++ a.extractLsb' 8 1, a.extractLsb' 0 8] 1) ∧
  (∀ i : IndReg, FormOf (.ldInd i) [0b000001#6 ++ i] 1) ∧
  ∀ s : State,
    (∀ a, Completes (.ldDir a) s fun t => t.acc = s.memRead a ∧ FlagsKept s t ∧ RegisterFrame [.acc] 2 s t) ∧
    (∀ i, Completes (.ldInd i) s fun t =>
      t.acc = s.memRead (s.indAddr i) ∧ FlagsKept s t ∧ RegisterFrame [.acc] 1 s t)

/-- `st` (R112): `acc` is stored at the operand's address; the flags change only where that is `psw`, and then with its bits
(decision D18). -/
def Obligations.StCompletes : Prop :=
  ∀ s : State,
    (∀ a, Completes (.stDir a) s fun t => Stored [] a s.acc s t ∧ t.acc = s.acc ∧
      (s.sfrAt a ≠ some .psw → FlagsKept s t) ∧ (s.sfrAt a = some .psw → t.psw = s.acc) ∧ Advanced 2 s t) ∧
    (∀ i, Completes (.stInd i) s fun t => Stored [] (s.indAddr i) s.acc s t ∧ t.acc = s.acc ∧
      (s.sfrAt (s.indAddr i) ≠ some .psw → FlagsKept s t) ∧ (s.sfrAt (s.indAddr i) = some .psw → t.psw = s.acc) ∧
      Advanced 1 s t)

/-- `mov` (R113): the constant is stored at the second operand's address; the flags change only where that is `psw`, and then with
its bits (R35, decision D18). -/
def Obligations.MovCompletes : Prop :=
  ∀ (s : State) (v : Byte),
    (∀ a, Completes (.movDir v a) s fun t => Stored [] a v s t ∧ (s.sfrAt a ≠ some .psw → FlagsKept s t) ∧
      (s.sfrAt a = some .psw → t.psw = v) ∧ Advanced 3 s t) ∧
    (∀ i, Completes (.movInd v i) s fun t => Stored [] (s.indAddr i) v s t ∧
      (s.sfrAt (s.indAddr i) ≠ some .psw → FlagsKept s t) ∧ (s.sfrAt (s.indAddr i) = some .psw → t.psw = v) ∧
      Advanced 2 s t)

/-- `ldc` (R114; unsigned and modulo 2^16 by decision D15): `acc` takes the ROM byte at `tr` plus `acc`; nothing else changes. -/
def Obligations.LdcCompletes : Prop :=
  ∀ s : State, Completes .ldc s fun t =>
    t.acc = s.rom.read ((s.trh.toNat * 256 + s.trl.toNat + s.acc.toNat) % 65536) ∧ FlagsKept s t ∧
    RegisterFrame [.acc] 1 s t

/-- `push` of anything but `sp` (R115; 8-bit `sp` and stack cell by decision D9, operand read first by D17): the incremented `sp`
addresses the cell that takes the operand's content. -/
def Obligations.PushCompletes : Prop :=
  ∀ (s : State) (a : DataAddr), s.sfrAt a ≠ some .sp → Completes (.pushDir a) s fun t =>
    Stored [.sp] (stackAddr (s.sp + 1)) (s.memRead a) s t ∧
    (s.sfrAt (stackAddr (s.sp + 1)) ≠ some .sp → t.sp = s.sp + 1) ∧
    (stackAddr (s.sp + 1)).toNat = (s.sp.toNat + 1) % 256 ∧
    (s.sfrAt (stackAddr (s.sp + 1)) ≠ some .psw → FlagsKept s t) ∧ Advanced 2 s t

/-- `pop` into anything but `sp` (R116; destination by C2, stack cell by decision D9): the operand takes the byte `sp` points to,
then `sp` is decremented; `acc` is not written. -/
def Obligations.PopCompletes : Prop :=
  ∀ (s : State) (a : DataAddr), s.sfrAt a ≠ some .sp → Completes (.popDir a) s fun t =>
    Stored [.sp] a (s.memRead (stackAddr s.sp)) s t ∧ t.sp = s.sp - 1 ∧ (stackAddr s.sp).toNat = s.sp.toNat ∧
    (s.sfrAt a ≠ some .acc → t.acc = s.acc) ∧ (s.sfrAt a ≠ some .psw → FlagsKept s t) ∧ Advanced 2 s t

/-- `push` and `pop` whose operand is `sp` itself are refused (R115, R116, decision D17; log 14). -/
def Obligations.PushPopOfSpRefused : Prop :=
  ∀ (s : State) (a : DataAddr), s.sfrAt a = some .sp →
    exec (.pushDir a) s = .refused .pushPopSp ∧ exec (.popDir a) s = .refused .pushPopSp

/-- `push x` then `pop y` copies `x` to `y` and restores `sp`, where the stack cell is no register (corner case of R116; the stack's
place and width are decision D9). -/
def Obligations.PushThenPopCopies : Prop :=
  ∀ (s : State) (x y : DataAddr), s.sfrAt x ≠ some .sp → s.sfrAt y ≠ some .sp →
    s.sfrAt (stackAddr (s.sp + 1)) = none →
    ∃ t u, exec (.pushDir x) s = .next t ∧ exec (.popDir y) t = .next u ∧ u.memRead y = s.memRead x ∧ u.sp = s.sp

/-- `xch` (R117): `acc` and the operand exchange their contents; nothing else changes. -/
def Obligations.XchCompletes : Prop :=
  ∀ s : State,
    (∀ a, Completes (.xchDir a) s fun t => Stored [.acc] a s.acc s t ∧ t.acc = s.memRead a ∧
      (s.sfrAt a ≠ some .psw → FlagsKept s t) ∧ Advanced 2 s t) ∧
    (∀ i, Completes (.xchInd i) s fun t => Stored [.acc] (s.indAddr i) s.acc s t ∧ t.acc = s.memRead (s.indAddr i) ∧
      (s.sfrAt (s.indAddr i) ≠ some .psw → FlagsKept s t) ∧ Advanced 1 s t)

/-- Two `xch` of the same direct address restore every register and every cell (corner case of R117). -/
def Obligations.TwoExchangesRestore : Prop :=
  ∀ (s : State) (a : DataAddr), ∃ t u, exec (.xchDir a) s = .next t ∧ exec (.xchDir a) t = .next u ∧
    (∀ r, u.readReg r = s.readReg r) ∧ CellsKept s u

/-! Whole-machine rules -/

/-- Over all instructions: a register changes only where R11's table has the mnemonic write it, or where the instruction stores to
the data address `sfr_map` gives it. -/
def Obligations.RegistersChangeOnlyAsTabled : Prop :=
  ∀ (i : Instr) (s t : State) (r : Reg), exec i s = .next t → r ∉ tabledWrites i.mnemonic →
    (∀ a, storeAddr s i = some a → s.sfrAt a ≠ some r) → t.readReg r = s.readReg r

/-- Over all instructions: a cell of the data space changes only where the instruction stores to its address and no register is
there (derived from R30, R32, R34, R42). -/
def Obligations.CellsChangeOnlyWhereStored : Prop :=
  ∀ (i : Instr) (s t : State) (k : Nat), exec i s = .next t →
    (∀ a, storeAddr s i = some a → ¬ (s.sfrAt a = none ∧ k = a.toNat)) → t.data.read k = s.data.read k

/-- `tr` is `trh` above `trl`, and no instruction writes either except through an `sfr_map` alias (R13). -/
def Obligations.TrIsWrittenOnlyThroughAnAlias : Prop :=
  (∀ s : State, s.tr.toNat = s.trh.toNat * 256 + s.trl.toNat) ∧
  ∀ (i : Instr) (s t : State), exec i s = .next t →
    ((∀ a, storeAddr s i = some a → s.sfrAt a ≠ some .trh) → t.trh = s.trh) ∧
    ((∀ a, storeAddr s i = some a → s.sfrAt a ≠ some .trl) → t.trl = s.trl)

/-- A step of a run that is neither refused nor ended runs the instruction its bytes decode to, and nothing is added around it
(R25; the fetch space is decision D2, the refusal at the end of the ROM space D4). -/
def Obligations.StepRunsTheDecodedInstruction : Prop :=
  ∀ (s : State) (i : Instr) (rest : List Byte), Ready s → decode (s.fetchBytes s.pc 3) = .ok (i, rest) →
    i.wellFormed = true → s.pc.toNat + i.length < 0x10000 → step s = exec i s

/-- A first byte of R56's list is refused by name and nothing else happens; no other first byte is (decision D5; log 22). -/
def Obligations.UndocumentedOpcodesRefused : Prop :=
  ∀ s : State, Ready s →
    (undocumentedByte (s.fetch s.pc) = true → step s = .refused (.undocumentedOpcode (s.fetch s.pc))) ∧
    (undocumentedByte (s.fetch s.pc) = false → ∀ b0, step s ≠ .refused (.undocumentedOpcode b0))

/-- An instruction that does not end below address 0xFFFF is refused (R18, C4, decision D4; log 12). -/
def Obligations.PcWrapRefused : Prop :=
  ∀ (s : State) (i : Instr) (rest : List Byte), Ready s → decode (s.fetchBytes s.pc 3) = .ok (i, rest) →
    0x10000 ≤ s.pc.toNat + i.length → step s = .refused .pcWrap

/-- The only fault is the end of the run at `halt_pc`, and it comes before the fetch (R193, R173, decision D24; log 4). -/
def Obligations.FaultsExactlyAtHaltPc : Prop :=
  ∀ (s : State) (f : Fault), step s = .fault f ↔ s.refused = false ∧ s.params.haltPc = some s.pc ∧ f = .runEnded

/-- A refused run has no further step (R22, R25, decision D5; log 5). -/
def Obligations.RefusedRunHasNoStep : Prop :=
  ∀ s : State, step s = .refused .alreadyRefused ↔ s.refused = true

/-- The mark of a refused run (R22): while a run goes on it is not set; it is set exactly where the run ends in a refusal; and no
further step takes it off or changes anything (decision D5; where the mark is set: log 5). -/
def Obligations.RefusalMarksTheRun : Prop :=
  ∀ (n : Nat) (s : State), s.refused = false →
    (∀ t, Host.Core.run Sys2Proof.core n s = .next t → runMarked n s = t ∧ t.refused = false) ∧
    ((runMarked n s).refused = true ↔ ∃ r, Host.Core.run Sys2Proof.core n s = .refused r) ∧
    ((runMarked n s).refused = true → ∀ m, runMarked m (runMarked n s) = runMarked n s)

/-- A step is refused only in a run that is already refused, which is the model's own reason (log 5, deduced from R22 and R25), or
for one of the three reasons of the spec's closed list that belong to a step of this model, in its circumstances (R172, R173,
decisions D4, D5, D17). -/
def Obligations.RefusalsAreTheClosedList : Prop :=
  ∀ (s : State) (r : Refusal), step s = .refused r →
    (r = .alreadyRefused ∧ s.refused = true) ∨
    (Ready s ∧ r = .undocumentedOpcode (s.fetch s.pc) ∧ undocumentedByte (s.fetch s.pc) = true) ∨
    (Ready s ∧ r = .pcWrap ∧ ∃ i rest, decode (s.fetchBytes s.pc 3) = .ok (i, rest) ∧ 0x10000 ≤ s.pc.toNat + i.length) ∨
    (Ready s ∧ r = .pushPopSp ∧ ∃ a rest, s.sfrAt a = some .sp ∧
      (decode (s.fetchBytes s.pc 3) = .ok (.pushDir a, rest) ∨ decode (s.fetchBytes s.pc 3) = .ok (.popDir a, rest)))

/-- Every step that goes on moves `pc` up by the length of the instruction there, 1, 2 or 3, and never past 0xFFFF: the documented
subset has no control transfer (R18 with decisions D2 and D4, R130). -/
def Obligations.EveryStepAdvancesPcByTheLength : Prop :=
  ∀ s t : State, step s = .next t →
    ∃ i rest, decode (s.fetchBytes s.pc 3) = .ok (i, rest) ∧ 1 ≤ i.length ∧ i.length ≤ 3 ∧
      t.pc.toNat = s.pc.toNat + i.length

/-- A run of `n` steps has moved `pc` up by at least `n` and at most `3 n`; so no run has more than 65,535 steps (derived from R18
with D4, R130, R193). -/
def Obligations.RunsAreBoundedByThePc : Prop :=
  ∀ (n : Nat) (s t : State), Host.Core.run Sys2Proof.core n s = .next t →
    s.pc.toNat + n ≤ t.pc.toNat ∧ t.pc.toNat ≤ s.pc.toNat + 3 * n ∧ n ≤ 65535

/-- A run that ends normally does so after one number of steps and in one state (R193, decision D24; log 4). -/
def Obligations.NormalEndIsUnique : Prop :=
  ∀ (n m : Nat) (s t u : State), EndsNormally n s t → EndsNormally m s u → n = m ∧ t = u

/-- The ROM space and the parameters of a run are the same after any number of steps (derived from R20, R21, R46). -/
def Obligations.LaunchParametersNeverChange : Prop :=
  ∀ (n : Nat) (s t : State), Host.Core.run Sys2Proof.core n s = .next t → t.rom = s.rom ∧ t.params = s.params

/-- Every step keeps the invariant: both memories canonical and inside their spaces, admissible parameters, the run not refused
(derived from R14, R19, R20, R22, R32; the canonical form is the model's, log 3). -/
def Obligations.EveryStepKeepsTheInvariant : Prop :=
  ∀ s t : State, s.Inv → step s = .next t → t.Inv

/-- The reset state meets the invariant (its values are the model's choice, log 2, log 3). -/
def Obligations.ResetMeetsTheInvariant : Prop := State.reset.Inv

/-- Reset leaves the run unrefused with `pc` at `entry_pc` (R23, R191); the registers are the family's zeros, the model's choice
(log 2). -/
def Obligations.ResetValues : Prop :=
  State.reset.refused = false ∧ State.reset.pc = Launch.entryPc ∧ ∀ r, State.reset.readReg r = 0

/-- The cycle counts of all 42 forms (R196). -/
def Obligations.CycleCountsAsTabled : Prop :=
  ∀ i : Instr, i.cycles =
    match i with
    | .mul | .div => 7
    | .movDir _ _ | .ldc | .pushDir _ | .popDir _ => 2
    | _ => 1

/-! Assembler -/

/-- The assembler refuses each of the 22 named-only mnemonics, and any word outside the index table, by name: in a source line
whatever the arguments, and in a line of text whether or not its arguments can be read (R4, R64, R172, decision D30; log 22). -/
def Obligations.AssemblerRefusesUndocumentedWords : Prop :=
  ∀ (syms : List (String × Nat)) (w : String), w ∈ namedOnlyWords ∨ mnemonicWords.lookup w = none →
    (∀ args : List Arg, assembleLine syms ⟨w, args⟩ = .error (.undocumentedMnemonic w)) ∧
    (∀ text : String, lineWord text.toList = w → assembleText syms text = .error (.undocumentedMnemonic w))

/-- A source text is refused under the number of its first refused line, with that line's refusal (R64, decision D30; counting
from 1 is log 23). -/
def Obligations.AssemblerNamesTheRefusedLine : Prop :=
  ∀ (syms : List (String × Nat)) (text : String) (good : List (List Char)) (bad : List Char) (more : List (List Char))
    (e : AsmRefusal), cutAt '\n' text.toList = good ++ bad :: more →
      (∀ l ∈ good, ∃ bytes, lineBytes syms l = .ok bytes) → lineBytes syms bad = .error e →
      assembleSource syms text = .error (good.length + 1, e)

/-- Every instruction is what its own source line assembles to, under any symbols (derived from R58 to R61; log 23). -/
def Obligations.AssemblerReachesEveryForm : Prop :=
  ∀ (i : Instr) (syms : List (String × Nat)), assembleLine syms (sourceOf i) = .ok i
end

