-- ==== Sys2Proof/Laws/Assembler.lean ====
section
/-! SUPPORT. What the assembler's shared operations answer, said once each. -/

namespace Sys2Proof.Machine

/-- A word is documented as the mnemonic the index table gives it, where that has a section of its own (R3). -/
theorem documentedMnemonic_eq_some {w : String} {m : Mnemonic} :
    documentedMnemonic w = some m ↔ mnemonicWords.lookup w = some m ∧ Mnemonic.documented m = true := by
  simp [documentedMnemonic, Option.filter_eq_some_iff]

/-- A word outside the index table is not documented. -/
theorem documentedMnemonic_of_lookup_none {w : String} (h : mnemonicWords.lookup w = none) : documentedMnemonic w = none := by
  simp [documentedMnemonic, h]

variable {α : Type} {bytesOf : α → Except AsmRefusal (List Byte)} {n : Nat} {l : α} {rest : List α}

@[simp] theorem assembleEach_nil : assembleEach bytesOf n [] = .ok [] := rfl

/-- A refused first line refuses the sequence, under its number. -/
theorem assembleEach_cons_refused {e : AsmRefusal} (h : bytesOf l = .error e) :
    assembleEach bytesOf n (l :: rest) = .error (n, e) := by simp [assembleEach, h]

/-- After a first line that assembles, the rest decides. -/
theorem assembleEach_cons_ok {bytes : List Byte} (h : bytesOf l = .ok bytes) :
    assembleEach bytesOf n (l :: rest) = (assembleEach bytesOf (n + 1) rest).map (bytes ++ ·) := by
  simp only [assembleEach, h]
  cases assembleEach bytesOf (n + 1) rest <;> rfl

end Sys2Proof.Machine
end

