-- ==== Sys2Proof/Laws/State.lean ====
section
/-! SUPPORT. One lemma per field per update of the state, so that no proof unfolds a record update. -/

namespace Sys2Proof.Machine

@[simp] theorem State.setAcc_acc (s : State) (v : Byte) : (s.setAcc v).acc = v := rfl
@[simp] theorem State.setAcc_b (s : State) (v : Byte) : (s.setAcc v).b = s.b := rfl
@[simp] theorem State.setAcc_c (s : State) (v : Byte) : (s.setAcc v).c = s.c := rfl
@[simp] theorem State.setAcc_psw (s : State) (v : Byte) : (s.setAcc v).psw = s.psw := rfl
@[simp] theorem State.setAcc_trh (s : State) (v : Byte) : (s.setAcc v).trh = s.trh := rfl
@[simp] theorem State.setAcc_trl (s : State) (v : Byte) : (s.setAcc v).trl = s.trl := rfl
@[simp] theorem State.setAcc_sp (s : State) (v : Byte) : (s.setAcc v).sp = s.sp := rfl
@[simp] theorem State.setAcc_pc (s : State) (v : Byte) : (s.setAcc v).pc = s.pc := rfl
@[simp] theorem State.setAcc_data (s : State) (v : Byte) : (s.setAcc v).data = s.data := rfl
@[simp] theorem State.setAcc_rom (s : State) (v : Byte) : (s.setAcc v).rom = s.rom := rfl
@[simp] theorem State.setAcc_refused (s : State) (v : Byte) : (s.setAcc v).refused = s.refused := rfl
@[simp] theorem State.setAcc_params (s : State) (v : Byte) : (s.setAcc v).params = s.params := rfl

@[simp] theorem State.setB_acc (s : State) (v : Byte) : (s.setB v).acc = s.acc := rfl
@[simp] theorem State.setB_b (s : State) (v : Byte) : (s.setB v).b = v := rfl
@[simp] theorem State.setB_c (s : State) (v : Byte) : (s.setB v).c = s.c := rfl
@[simp] theorem State.setB_psw (s : State) (v : Byte) : (s.setB v).psw = s.psw := rfl
@[simp] theorem State.setB_trh (s : State) (v : Byte) : (s.setB v).trh = s.trh := rfl
@[simp] theorem State.setB_trl (s : State) (v : Byte) : (s.setB v).trl = s.trl := rfl
@[simp] theorem State.setB_sp (s : State) (v : Byte) : (s.setB v).sp = s.sp := rfl
@[simp] theorem State.setB_pc (s : State) (v : Byte) : (s.setB v).pc = s.pc := rfl
@[simp] theorem State.setB_data (s : State) (v : Byte) : (s.setB v).data = s.data := rfl
@[simp] theorem State.setB_rom (s : State) (v : Byte) : (s.setB v).rom = s.rom := rfl
@[simp] theorem State.setB_refused (s : State) (v : Byte) : (s.setB v).refused = s.refused := rfl
@[simp] theorem State.setB_params (s : State) (v : Byte) : (s.setB v).params = s.params := rfl

@[simp] theorem State.setC_acc (s : State) (v : Byte) : (s.setC v).acc = s.acc := rfl
@[simp] theorem State.setC_b (s : State) (v : Byte) : (s.setC v).b = s.b := rfl
@[simp] theorem State.setC_c (s : State) (v : Byte) : (s.setC v).c = v := rfl
@[simp] theorem State.setC_psw (s : State) (v : Byte) : (s.setC v).psw = s.psw := rfl
@[simp] theorem State.setC_trh (s : State) (v : Byte) : (s.setC v).trh = s.trh := rfl
@[simp] theorem State.setC_trl (s : State) (v : Byte) : (s.setC v).trl = s.trl := rfl
@[simp] theorem State.setC_sp (s : State) (v : Byte) : (s.setC v).sp = s.sp := rfl
@[simp] theorem State.setC_pc (s : State) (v : Byte) : (s.setC v).pc = s.pc := rfl
@[simp] theorem State.setC_data (s : State) (v : Byte) : (s.setC v).data = s.data := rfl
@[simp] theorem State.setC_rom (s : State) (v : Byte) : (s.setC v).rom = s.rom := rfl
@[simp] theorem State.setC_refused (s : State) (v : Byte) : (s.setC v).refused = s.refused := rfl
@[simp] theorem State.setC_params (s : State) (v : Byte) : (s.setC v).params = s.params := rfl

@[simp] theorem State.setPsw_acc (s : State) (v : Byte) : (s.setPsw v).acc = s.acc := rfl
@[simp] theorem State.setPsw_b (s : State) (v : Byte) : (s.setPsw v).b = s.b := rfl
@[simp] theorem State.setPsw_c (s : State) (v : Byte) : (s.setPsw v).c = s.c := rfl
@[simp] theorem State.setPsw_psw (s : State) (v : Byte) : (s.setPsw v).psw = v := rfl
@[simp] theorem State.setPsw_trh (s : State) (v : Byte) : (s.setPsw v).trh = s.trh := rfl
@[simp] theorem State.setPsw_trl (s : State) (v : Byte) : (s.setPsw v).trl = s.trl := rfl
@[simp] theorem State.setPsw_sp (s : State) (v : Byte) : (s.setPsw v).sp = s.sp := rfl
@[simp] theorem State.setPsw_pc (s : State) (v : Byte) : (s.setPsw v).pc = s.pc := rfl
@[simp] theorem State.setPsw_data (s : State) (v : Byte) : (s.setPsw v).data = s.data := rfl
@[simp] theorem State.setPsw_rom (s : State) (v : Byte) : (s.setPsw v).rom = s.rom := rfl
@[simp] theorem State.setPsw_refused (s : State) (v : Byte) : (s.setPsw v).refused = s.refused := rfl
@[simp] theorem State.setPsw_params (s : State) (v : Byte) : (s.setPsw v).params = s.params := rfl

@[simp] theorem State.setTrh_acc (s : State) (v : Byte) : (s.setTrh v).acc = s.acc := rfl
@[simp] theorem State.setTrh_b (s : State) (v : Byte) : (s.setTrh v).b = s.b := rfl
@[simp] theorem State.setTrh_c (s : State) (v : Byte) : (s.setTrh v).c = s.c := rfl
@[simp] theorem State.setTrh_psw (s : State) (v : Byte) : (s.setTrh v).psw = s.psw := rfl
@[simp] theorem State.setTrh_trh (s : State) (v : Byte) : (s.setTrh v).trh = v := rfl
@[simp] theorem State.setTrh_trl (s : State) (v : Byte) : (s.setTrh v).trl = s.trl := rfl
@[simp] theorem State.setTrh_sp (s : State) (v : Byte) : (s.setTrh v).sp = s.sp := rfl
@[simp] theorem State.setTrh_pc (s : State) (v : Byte) : (s.setTrh v).pc = s.pc := rfl
@[simp] theorem State.setTrh_data (s : State) (v : Byte) : (s.setTrh v).data = s.data := rfl
@[simp] theorem State.setTrh_rom (s : State) (v : Byte) : (s.setTrh v).rom = s.rom := rfl
@[simp] theorem State.setTrh_refused (s : State) (v : Byte) : (s.setTrh v).refused = s.refused := rfl
@[simp] theorem State.setTrh_params (s : State) (v : Byte) : (s.setTrh v).params = s.params := rfl

@[simp] theorem State.setTrl_acc (s : State) (v : Byte) : (s.setTrl v).acc = s.acc := rfl
@[simp] theorem State.setTrl_b (s : State) (v : Byte) : (s.setTrl v).b = s.b := rfl
@[simp] theorem State.setTrl_c (s : State) (v : Byte) : (s.setTrl v).c = s.c := rfl
@[simp] theorem State.setTrl_psw (s : State) (v : Byte) : (s.setTrl v).psw = s.psw := rfl
@[simp] theorem State.setTrl_trh (s : State) (v : Byte) : (s.setTrl v).trh = s.trh := rfl
@[simp] theorem State.setTrl_trl (s : State) (v : Byte) : (s.setTrl v).trl = v := rfl
@[simp] theorem State.setTrl_sp (s : State) (v : Byte) : (s.setTrl v).sp = s.sp := rfl
@[simp] theorem State.setTrl_pc (s : State) (v : Byte) : (s.setTrl v).pc = s.pc := rfl
@[simp] theorem State.setTrl_data (s : State) (v : Byte) : (s.setTrl v).data = s.data := rfl
@[simp] theorem State.setTrl_rom (s : State) (v : Byte) : (s.setTrl v).rom = s.rom := rfl
@[simp] theorem State.setTrl_refused (s : State) (v : Byte) : (s.setTrl v).refused = s.refused := rfl
@[simp] theorem State.setTrl_params (s : State) (v : Byte) : (s.setTrl v).params = s.params := rfl

@[simp] theorem State.setSp_acc (s : State) (v : Byte) : (s.setSp v).acc = s.acc := rfl
@[simp] theorem State.setSp_b (s : State) (v : Byte) : (s.setSp v).b = s.b := rfl
@[simp] theorem State.setSp_c (s : State) (v : Byte) : (s.setSp v).c = s.c := rfl
@[simp] theorem State.setSp_psw (s : State) (v : Byte) : (s.setSp v).psw = s.psw := rfl
@[simp] theorem State.setSp_trh (s : State) (v : Byte) : (s.setSp v).trh = s.trh := rfl
@[simp] theorem State.setSp_trl (s : State) (v : Byte) : (s.setSp v).trl = s.trl := rfl
@[simp] theorem State.setSp_sp (s : State) (v : Byte) : (s.setSp v).sp = v := rfl
@[simp] theorem State.setSp_pc (s : State) (v : Byte) : (s.setSp v).pc = s.pc := rfl
@[simp] theorem State.setSp_data (s : State) (v : Byte) : (s.setSp v).data = s.data := rfl
@[simp] theorem State.setSp_rom (s : State) (v : Byte) : (s.setSp v).rom = s.rom := rfl
@[simp] theorem State.setSp_refused (s : State) (v : Byte) : (s.setSp v).refused = s.refused := rfl
@[simp] theorem State.setSp_params (s : State) (v : Byte) : (s.setSp v).params = s.params := rfl

@[simp] theorem State.setPc_acc (s : State) (v : CodeAddr) : (s.setPc v).acc = s.acc := rfl
@[simp] theorem State.setPc_b (s : State) (v : CodeAddr) : (s.setPc v).b = s.b := rfl
@[simp] theorem State.setPc_c (s : State) (v : CodeAddr) : (s.setPc v).c = s.c := rfl
@[simp] theorem State.setPc_psw (s : State) (v : CodeAddr) : (s.setPc v).psw = s.psw := rfl
@[simp] theorem State.setPc_trh (s : State) (v : CodeAddr) : (s.setPc v).trh = s.trh := rfl
@[simp] theorem State.setPc_trl (s : State) (v : CodeAddr) : (s.setPc v).trl = s.trl := rfl
@[simp] theorem State.setPc_sp (s : State) (v : CodeAddr) : (s.setPc v).sp = s.sp := rfl
@[simp] theorem State.setPc_pc (s : State) (v : CodeAddr) : (s.setPc v).pc = v := rfl
@[simp] theorem State.setPc_data (s : State) (v : CodeAddr) : (s.setPc v).data = s.data := rfl
@[simp] theorem State.setPc_rom (s : State) (v : CodeAddr) : (s.setPc v).rom = s.rom := rfl
@[simp] theorem State.setPc_refused (s : State) (v : CodeAddr) : (s.setPc v).refused = s.refused := rfl
@[simp] theorem State.setPc_params (s : State) (v : CodeAddr) : (s.setPc v).params = s.params := rfl

@[simp] theorem State.setData_acc (s : State) (v : Memory) : (s.setData v).acc = s.acc := rfl
@[simp] theorem State.setData_b (s : State) (v : Memory) : (s.setData v).b = s.b := rfl
@[simp] theorem State.setData_c (s : State) (v : Memory) : (s.setData v).c = s.c := rfl
@[simp] theorem State.setData_psw (s : State) (v : Memory) : (s.setData v).psw = s.psw := rfl
@[simp] theorem State.setData_trh (s : State) (v : Memory) : (s.setData v).trh = s.trh := rfl
@[simp] theorem State.setData_trl (s : State) (v : Memory) : (s.setData v).trl = s.trl := rfl
@[simp] theorem State.setData_sp (s : State) (v : Memory) : (s.setData v).sp = s.sp := rfl
@[simp] theorem State.setData_pc (s : State) (v : Memory) : (s.setData v).pc = s.pc := rfl
@[simp] theorem State.setData_data (s : State) (v : Memory) : (s.setData v).data = v := rfl
@[simp] theorem State.setData_rom (s : State) (v : Memory) : (s.setData v).rom = s.rom := rfl
@[simp] theorem State.setData_refused (s : State) (v : Memory) : (s.setData v).refused = s.refused := rfl
@[simp] theorem State.setData_params (s : State) (v : Memory) : (s.setData v).params = s.params := rfl

@[simp] theorem State.markRefused_acc (s : State) : s.markRefused.acc = s.acc := rfl
@[simp] theorem State.markRefused_b (s : State) : s.markRefused.b = s.b := rfl
@[simp] theorem State.markRefused_c (s : State) : s.markRefused.c = s.c := rfl
@[simp] theorem State.markRefused_psw (s : State) : s.markRefused.psw = s.psw := rfl
@[simp] theorem State.markRefused_trh (s : State) : s.markRefused.trh = s.trh := rfl
@[simp] theorem State.markRefused_trl (s : State) : s.markRefused.trl = s.trl := rfl
@[simp] theorem State.markRefused_sp (s : State) : s.markRefused.sp = s.sp := rfl
@[simp] theorem State.markRefused_pc (s : State) : s.markRefused.pc = s.pc := rfl
@[simp] theorem State.markRefused_data (s : State) : s.markRefused.data = s.data := rfl
@[simp] theorem State.markRefused_rom (s : State) : s.markRefused.rom = s.rom := rfl
@[simp] theorem State.markRefused_refused (s : State) : s.markRefused.refused = true := rfl
@[simp] theorem State.markRefused_params (s : State) : s.markRefused.params = s.params := rfl

@[simp] theorem State.advance_acc (s : State) (n : Nat) : (s.advance n).acc = s.acc := rfl
@[simp] theorem State.advance_b (s : State) (n : Nat) : (s.advance n).b = s.b := rfl
@[simp] theorem State.advance_c (s : State) (n : Nat) : (s.advance n).c = s.c := rfl
@[simp] theorem State.advance_psw (s : State) (n : Nat) : (s.advance n).psw = s.psw := rfl
@[simp] theorem State.advance_trh (s : State) (n : Nat) : (s.advance n).trh = s.trh := rfl
@[simp] theorem State.advance_trl (s : State) (n : Nat) : (s.advance n).trl = s.trl := rfl
@[simp] theorem State.advance_sp (s : State) (n : Nat) : (s.advance n).sp = s.sp := rfl
@[simp] theorem State.advance_pc (s : State) (n : Nat) : (s.advance n).pc = s.pc + BitVec.ofNat 16 n := rfl
@[simp] theorem State.advance_data (s : State) (n : Nat) : (s.advance n).data = s.data := rfl
@[simp] theorem State.advance_rom (s : State) (n : Nat) : (s.advance n).rom = s.rom := rfl
@[simp] theorem State.advance_refused (s : State) (n : Nat) : (s.advance n).refused = s.refused := rfl
@[simp] theorem State.advance_params (s : State) (n : Nat) : (s.advance n).params = s.params := rfl

end Sys2Proof.Machine
end

