-- ==== Sys2Proof/Laws/Flags.lean ====
section
/-! SUPPORT. The flags as bits of `psw`: what writing one flag does to each bit. -/

namespace Sys2Proof.Machine

/-- Distinct flag positions. -/
theorem PswLayout.distinct {l : PswLayout} (h : l.wellFormed = true) :
    l.posCy ≠ l.posAc ∧ l.posCy ≠ l.posOv ∧ l.posAc ≠ l.posOv := by
  simpa [PswLayout.wellFormed, and_assoc] using h

/-- Replacing one bit of a byte. -/
theorem getLsbD_putBit (v : Byte) (k j : Fin 8) (x : Bool) :
    (putBit v k x).getLsbD j.val = if j = k then x else v.getLsbD j.val := by
  have h : ∀ j k : Fin 8, ∀ x : Bool,
      (BitVec.ofNat 8 1 <<< k.val).getLsbD j.val = decide (j = k) ∧
      ((BitVec.ofBool x).setWidth 8 <<< k.val).getLsbD j.val = (decide (j = k) && x) := by decide
  simp only [putBit, BitVec.getLsbD_or, BitVec.getLsbD_and, BitVec.getLsbD_not, (h j k x).1, (h j k x).2, j.isLt]
  by_cases e : j = k <;> simp [e]

@[simp] theorem State.putCy_psw (s : State) (x : Bool) : (s.putCy x).psw = putBit s.psw s.params.pswLayout.posCy x := rfl
@[simp] theorem State.putAc_psw (s : State) (x : Bool) : (s.putAc x).psw = putBit s.psw s.params.pswLayout.posAc x := rfl
@[simp] theorem State.putOv_psw (s : State) (x : Bool) : (s.putOv x).psw = putBit s.psw s.params.pswLayout.posOv x := rfl

@[simp] theorem State.putCy_acc (s : State) (x : Bool) : (s.putCy x).acc = s.acc := rfl
@[simp] theorem State.putCy_b (s : State) (x : Bool) : (s.putCy x).b = s.b := rfl
@[simp] theorem State.putCy_c (s : State) (x : Bool) : (s.putCy x).c = s.c := rfl
@[simp] theorem State.putCy_trh (s : State) (x : Bool) : (s.putCy x).trh = s.trh := rfl
@[simp] theorem State.putCy_trl (s : State) (x : Bool) : (s.putCy x).trl = s.trl := rfl
@[simp] theorem State.putCy_sp (s : State) (x : Bool) : (s.putCy x).sp = s.sp := rfl
@[simp] theorem State.putCy_pc (s : State) (x : Bool) : (s.putCy x).pc = s.pc := rfl
@[simp] theorem State.putCy_data (s : State) (x : Bool) : (s.putCy x).data = s.data := rfl
@[simp] theorem State.putCy_rom (s : State) (x : Bool) : (s.putCy x).rom = s.rom := rfl
@[simp] theorem State.putCy_refused (s : State) (x : Bool) : (s.putCy x).refused = s.refused := rfl
@[simp] theorem State.putCy_params (s : State) (x : Bool) : (s.putCy x).params = s.params := rfl

@[simp] theorem State.putAc_acc (s : State) (x : Bool) : (s.putAc x).acc = s.acc := rfl
@[simp] theorem State.putAc_b (s : State) (x : Bool) : (s.putAc x).b = s.b := rfl
@[simp] theorem State.putAc_c (s : State) (x : Bool) : (s.putAc x).c = s.c := rfl
@[simp] theorem State.putAc_trh (s : State) (x : Bool) : (s.putAc x).trh = s.trh := rfl
@[simp] theorem State.putAc_trl (s : State) (x : Bool) : (s.putAc x).trl = s.trl := rfl
@[simp] theorem State.putAc_sp (s : State) (x : Bool) : (s.putAc x).sp = s.sp := rfl
@[simp] theorem State.putAc_pc (s : State) (x : Bool) : (s.putAc x).pc = s.pc := rfl
@[simp] theorem State.putAc_data (s : State) (x : Bool) : (s.putAc x).data = s.data := rfl
@[simp] theorem State.putAc_rom (s : State) (x : Bool) : (s.putAc x).rom = s.rom := rfl
@[simp] theorem State.putAc_refused (s : State) (x : Bool) : (s.putAc x).refused = s.refused := rfl
@[simp] theorem State.putAc_params (s : State) (x : Bool) : (s.putAc x).params = s.params := rfl

@[simp] theorem State.putOv_acc (s : State) (x : Bool) : (s.putOv x).acc = s.acc := rfl
@[simp] theorem State.putOv_b (s : State) (x : Bool) : (s.putOv x).b = s.b := rfl
@[simp] theorem State.putOv_c (s : State) (x : Bool) : (s.putOv x).c = s.c := rfl
@[simp] theorem State.putOv_trh (s : State) (x : Bool) : (s.putOv x).trh = s.trh := rfl
@[simp] theorem State.putOv_trl (s : State) (x : Bool) : (s.putOv x).trl = s.trl := rfl
@[simp] theorem State.putOv_sp (s : State) (x : Bool) : (s.putOv x).sp = s.sp := rfl
@[simp] theorem State.putOv_pc (s : State) (x : Bool) : (s.putOv x).pc = s.pc := rfl
@[simp] theorem State.putOv_data (s : State) (x : Bool) : (s.putOv x).data = s.data := rfl
@[simp] theorem State.putOv_rom (s : State) (x : Bool) : (s.putOv x).rom = s.rom := rfl
@[simp] theorem State.putOv_refused (s : State) (x : Bool) : (s.putOv x).refused = s.refused := rfl
@[simp] theorem State.putOv_params (s : State) (x : Bool) : (s.putOv x).params = s.params := rfl

@[simp] theorem State.putAlu_acc (s : State) (r : AluResult) : (s.putAlu r).acc = r.res := rfl
@[simp] theorem State.putAlu_b (s : State) (r : AluResult) : (s.putAlu r).b = s.b := rfl
@[simp] theorem State.putAlu_c (s : State) (r : AluResult) : (s.putAlu r).c = s.c := rfl
@[simp] theorem State.putAlu_trh (s : State) (r : AluResult) : (s.putAlu r).trh = s.trh := rfl
@[simp] theorem State.putAlu_trl (s : State) (r : AluResult) : (s.putAlu r).trl = s.trl := rfl
@[simp] theorem State.putAlu_sp (s : State) (r : AluResult) : (s.putAlu r).sp = s.sp := rfl
@[simp] theorem State.putAlu_pc (s : State) (r : AluResult) : (s.putAlu r).pc = s.pc := rfl
@[simp] theorem State.putAlu_data (s : State) (r : AluResult) : (s.putAlu r).data = s.data := rfl
@[simp] theorem State.putAlu_rom (s : State) (r : AluResult) : (s.putAlu r).rom = s.rom := rfl
@[simp] theorem State.putAlu_refused (s : State) (r : AluResult) : (s.putAlu r).refused = s.refused := rfl
@[simp] theorem State.putAlu_params (s : State) (r : AluResult) : (s.putAlu r).params = s.params := rfl

/-- Every bit of `psw` after an adder's result is stored; `cy`, `ac`, `ov` are written in this order. -/
theorem State.getLsbD_putAlu_psw (s : State) (r : AluResult) (j : Fin 8) :
    (s.putAlu r).psw.getLsbD j.val =
      if j = s.params.pswLayout.posOv then r.ov
      else if j = s.params.pswLayout.posAc then r.ac
      else if j = s.params.pswLayout.posCy then r.cy
      else s.psw.getLsbD j.val := by
  simp only [State.putAlu, State.putOv_psw, State.putAc_psw, State.putCy_psw, State.putAc_params,
    State.putCy_params, State.setAcc_params, State.setAcc_psw, getLsbD_putBit]


/-! The flags after each update. -/

@[simp] theorem State.setAcc_cy (s : State) (v : Byte) : (s.setAcc v).cy = s.cy := rfl
@[simp] theorem State.setB_cy (s : State) (v : Byte) : (s.setB v).cy = s.cy := rfl
@[simp] theorem State.setC_cy (s : State) (v : Byte) : (s.setC v).cy = s.cy := rfl
@[simp] theorem State.setTrh_cy (s : State) (v : Byte) : (s.setTrh v).cy = s.cy := rfl
@[simp] theorem State.setTrl_cy (s : State) (v : Byte) : (s.setTrl v).cy = s.cy := rfl
@[simp] theorem State.setSp_cy (s : State) (v : Byte) : (s.setSp v).cy = s.cy := rfl
@[simp] theorem State.setPc_cy (s : State) (v : CodeAddr) : (s.setPc v).cy = s.cy := rfl
@[simp] theorem State.setData_cy (s : State) (v : Memory) : (s.setData v).cy = s.cy := rfl
@[simp] theorem State.advance_cy (s : State) (v : Nat) : (s.advance v).cy = s.cy := rfl

@[simp] theorem State.setAcc_ac (s : State) (v : Byte) : (s.setAcc v).ac = s.ac := rfl
@[simp] theorem State.setB_ac (s : State) (v : Byte) : (s.setB v).ac = s.ac := rfl
@[simp] theorem State.setC_ac (s : State) (v : Byte) : (s.setC v).ac = s.ac := rfl
@[simp] theorem State.setTrh_ac (s : State) (v : Byte) : (s.setTrh v).ac = s.ac := rfl
@[simp] theorem State.setTrl_ac (s : State) (v : Byte) : (s.setTrl v).ac = s.ac := rfl
@[simp] theorem State.setSp_ac (s : State) (v : Byte) : (s.setSp v).ac = s.ac := rfl
@[simp] theorem State.setPc_ac (s : State) (v : CodeAddr) : (s.setPc v).ac = s.ac := rfl
@[simp] theorem State.setData_ac (s : State) (v : Memory) : (s.setData v).ac = s.ac := rfl
@[simp] theorem State.advance_ac (s : State) (v : Nat) : (s.advance v).ac = s.ac := rfl

@[simp] theorem State.setAcc_ov (s : State) (v : Byte) : (s.setAcc v).ov = s.ov := rfl
@[simp] theorem State.setB_ov (s : State) (v : Byte) : (s.setB v).ov = s.ov := rfl
@[simp] theorem State.setC_ov (s : State) (v : Byte) : (s.setC v).ov = s.ov := rfl
@[simp] theorem State.setTrh_ov (s : State) (v : Byte) : (s.setTrh v).ov = s.ov := rfl
@[simp] theorem State.setTrl_ov (s : State) (v : Byte) : (s.setTrl v).ov = s.ov := rfl
@[simp] theorem State.setSp_ov (s : State) (v : Byte) : (s.setSp v).ov = s.ov := rfl
@[simp] theorem State.setPc_ov (s : State) (v : CodeAddr) : (s.setPc v).ov = s.ov := rfl
@[simp] theorem State.setData_ov (s : State) (v : Memory) : (s.setData v).ov = s.ov := rfl
@[simp] theorem State.advance_ov (s : State) (v : Nat) : (s.advance v).ov = s.ov := rfl

@[simp] theorem State.putCy_cy (s : State) (x : Bool) : (s.putCy x).cy = x :=
  (getLsbD_putBit s.psw _ s.params.pswLayout.posCy x).trans (if_pos rfl)
@[simp] theorem State.putAc_ac (s : State) (x : Bool) : (s.putAc x).ac = x :=
  (getLsbD_putBit s.psw _ s.params.pswLayout.posAc x).trans (if_pos rfl)
@[simp] theorem State.putOv_ov (s : State) (x : Bool) : (s.putOv x).ov = x :=
  (getLsbD_putBit s.psw _ s.params.pswLayout.posOv x).trans (if_pos rfl)

theorem State.putCy_ac (s : State) (x : Bool) (h : s.params.pswLayout.wellFormed = true) : (s.putCy x).ac = s.ac :=
  (getLsbD_putBit s.psw _ s.params.pswLayout.posAc x).trans (if_neg (PswLayout.distinct h).1.symm)
theorem State.putCy_ov (s : State) (x : Bool) (h : s.params.pswLayout.wellFormed = true) : (s.putCy x).ov = s.ov :=
  (getLsbD_putBit s.psw _ s.params.pswLayout.posOv x).trans (if_neg (PswLayout.distinct h).2.1.symm)
theorem State.putAc_cy (s : State) (x : Bool) (h : s.params.pswLayout.wellFormed = true) : (s.putAc x).cy = s.cy :=
  (getLsbD_putBit s.psw _ s.params.pswLayout.posCy x).trans (if_neg (PswLayout.distinct h).1)
theorem State.putAc_ov (s : State) (x : Bool) (h : s.params.pswLayout.wellFormed = true) : (s.putAc x).ov = s.ov :=
  (getLsbD_putBit s.psw _ s.params.pswLayout.posOv x).trans (if_neg (PswLayout.distinct h).2.2.symm)
theorem State.putOv_cy (s : State) (x : Bool) (h : s.params.pswLayout.wellFormed = true) : (s.putOv x).cy = s.cy :=
  (getLsbD_putBit s.psw _ s.params.pswLayout.posCy x).trans (if_neg (PswLayout.distinct h).2.1)
theorem State.putOv_ac (s : State) (x : Bool) (h : s.params.pswLayout.wellFormed = true) : (s.putOv x).ac = s.ac :=
  (getLsbD_putBit s.psw _ s.params.pswLayout.posAc x).trans (if_neg (PswLayout.distinct h).2.2)

theorem State.putAlu_cy (s : State) (r : AluResult) (h : s.params.pswLayout.wellFormed = true) : (s.putAlu r).cy = r.cy :=
  (State.putOv_cy (((s.setAcc r.res).putCy r.cy).putAc r.ac) r.ov h).trans
    ((State.putAc_cy ((s.setAcc r.res).putCy r.cy) r.ac h).trans (State.putCy_cy _ _))
theorem State.putAlu_ac (s : State) (r : AluResult) (h : s.params.pswLayout.wellFormed = true) : (s.putAlu r).ac = r.ac :=
  (State.putOv_ac (((s.setAcc r.res).putCy r.cy).putAc r.ac) r.ov h).trans (State.putAc_ac _ _)
@[simp] theorem State.putAlu_ov (s : State) (r : AluResult) : (s.putAlu r).ov = r.ov := State.putOv_ov _ _

end Sys2Proof.Machine
end

