-- ==== Sys2Proof/Laws/Memory.lean ====
section
/-! SUPPORT. Memory: a read after a write, and the canonical form, which every operation keeps. -/

namespace Sys2Proof.Machine

theorem Memory.read_erase (m : Memory) (a b : Nat) :
    Memory.read (Memory.erase m a) b = if b = a then Memory.unlisted else Memory.read m b := by
  induction m with
  | nil => simp [Memory.erase, Memory.read]
  | cons cell rest ih =>
    obtain ⟨k, v⟩ := cell
    unfold Memory.erase at ih ⊢
    by_cases hk : k = a
    · subst hk
      simp only [List.filter_cons, bne_self_eq_false, Bool.false_eq_true, if_false, ih]
      by_cases hb : b = k
      · simp [hb]
      · simp [hb, Memory.read, Ne.symm hb]
    · simp only [List.filter_cons, bne_iff_ne, ne_eq, hk, not_false_eq_true, if_true, Memory.read, ih]
      by_cases hb : k = b
      · simp [hb, show b ≠ a from hb ▸ hk]
      · simp [hb]

theorem Memory.read_insertCell (m : Memory) (a b : Nat) (v : Byte)
    (hm : ∀ cell ∈ m, cell.1 ≠ a) :
    Memory.read (Memory.insertCell m a v) b = if b = a then v else Memory.read m b := by
  induction m with
  | nil =>
    by_cases hb : b = a
    · simp [Memory.insertCell, Memory.read, hb]
    · simp [Memory.insertCell, Memory.read, hb, Ne.symm hb]
  | cons cell rest ih =>
    obtain ⟨k, w⟩ := cell
    have hk : k ≠ a := hm (k, w) (by simp)
    have hr := ih (fun x hx => hm x (by simp [hx]))
    unfold Memory.insertCell
    by_cases hlt : a < k
    · simp only [hlt, if_true, Memory.read]
      by_cases hb : a = b <;> simp [hb, eq_comm]
    · simp only [hlt, if_false, Memory.read, hr]
      by_cases hb : k = b
      · simp [hb, show b ≠ a from hb ▸ hk]
      · simp [hb]

theorem Memory.erase_no_entry (m : Memory) (a : Nat) : ∀ cell ∈ Memory.erase m a, cell.1 ≠ a := by
  intro cell h
  simpa [Memory.erase] using (List.mem_filter.mp h).2

/-- What a write does to every read, in any list. -/
theorem Memory.read_write (m : Memory) (a b : Nat) (v : Byte) :
    Memory.read (Memory.write m a v) b = if b = a then v else Memory.read m b := by
  unfold Memory.write
  by_cases hv : v = Memory.unlisted
  · simp only [hv, if_true, Memory.read_erase]
  · simp only [hv, if_false]
    rw [Memory.read_insertCell _ _ _ _ (Memory.erase_no_entry m a), Memory.read_erase]
    by_cases hb : b = a <;> simp [hb]

theorem Memory.wf_nil (size : Nat) : Memory.wf size [] := by simp [Memory.wf]

theorem Memory.wf_erase {size : Nat} {m : Memory} (h : Memory.wf size m) (a : Nat) : Memory.wf size (Memory.erase m a) :=
  ⟨h.1.sublist List.filter_sublist, fun cell hc => h.2 cell (List.mem_of_mem_filter hc)⟩

theorem Memory.mem_insertCell {m : Memory} {a : Nat} {v : Byte} {cell : Host.Cell}
    (h : cell ∈ Memory.insertCell m a v) : cell = (a, v) ∨ cell ∈ m := by
  induction m with
  | nil => simpa [Memory.insertCell] using h
  | cons x rest ih =>
    unfold Memory.insertCell at h
    split at h
    · simpa using h
    · rcases List.mem_cons.mp h with h | h
      · simp [h]
      · rcases ih h with h | h <;> simp [h]

theorem Memory.wf_insertCell {size : Nat} {m : Memory} (h : Memory.wf size m) {a : Nat} (ha : a < size)
    (hm : ∀ cell ∈ m, cell.1 ≠ a) {v : Byte} (hv : v ≠ Memory.unlisted) : Memory.wf size (Memory.insertCell m a v) := by
  refine ⟨?_, fun cell hc => ?_⟩
  · have hp := h.1
    clear h
    induction m with
    | nil => simp [Memory.insertCell]
    | cons x rest ih =>
      obtain ⟨hx, hrest⟩ := List.pairwise_cons.mp hp
      have hxa : x.1 ≠ a := hm x (by simp)
      unfold Memory.insertCell
      split
      next hlt =>
        refine List.pairwise_cons.mpr ⟨fun y hy => ?_, hp⟩
        rcases List.mem_cons.mp hy with rfl | hy
        · exact hlt
        · exact Nat.lt_trans hlt (hx y hy)
      next hlt =>
        refine List.pairwise_cons.mpr ⟨fun y hy => ?_, ih (fun c hc => hm c (by simp [hc])) hrest⟩
        rcases Memory.mem_insertCell hy with rfl | hy
        · exact Nat.lt_of_le_of_ne (Nat.le_of_not_lt hlt) hxa
        · exact hx y hy
  · rcases Memory.mem_insertCell hc with rfl | hc
    · exact ⟨ha, hv⟩
    · exact h.2 cell hc

/-- A write inside the address space keeps the canonical form. -/
theorem Memory.wf_write {size : Nat} {m : Memory} (h : Memory.wf size m) {a : Nat} (ha : a < size) (v : Byte) :
    Memory.wf size (Memory.write m a v) := by
  unfold Memory.write
  split
  · exact Memory.wf_erase h a
  · exact Memory.wf_insertCell (Memory.wf_erase h a) ha (Memory.erase_no_entry m a) ‹_›

/-- Loading bytes into the ROM space keeps the canonical form. -/
theorem Memory.wf_writeBytes {m : Memory} (h : Memory.wf 65536 m) (a : CodeAddr) (l : List Byte) :
    Memory.wf 65536 (Memory.writeBytes m a l) := by
  induction l generalizing m a with
  | nil => exact h
  | cons v rest ih => exact ih (Memory.wf_write h a.isLt v) _

end Sys2Proof.Machine
end

