-- ==== Sys2Proof/Laws/Ops.lean ====
section
/-! SUPPORT. What the shared register and memory operations do, said once each: the register overlay, MemWrite, and the operand
forms that write a data address. -/

namespace Sys2Proof.Machine

theorem SfrMap.addressOf_of_lookup {m : SfrMap} {a : DataAddr} {r : Reg} (h : SfrMap.lookup m a = some r) :
    SfrMap.addressOf m r = some a := by
  simpa using List.find?_some h

theorem SfrMap.lookup_none {m : SfrMap} {a : DataAddr} (h : SfrMap.lookup m a = none) (r : Reg) :
    SfrMap.addressOf m r ≠ some a := by
  have := List.find?_eq_none.mp h r (by cases r <;> simp [allRegs])
  simpa using this

@[simp] theorem State.readReg_acc (s : State) : s.readReg .acc = s.acc := rfl
@[simp] theorem State.readReg_b (s : State) : s.readReg .b = s.b := rfl
@[simp] theorem State.readReg_c (s : State) : s.readReg .c = s.c := rfl
@[simp] theorem State.readReg_psw (s : State) : s.readReg .psw = s.psw := rfl
@[simp] theorem State.readReg_trl (s : State) : s.readReg .trl = s.trl := rfl
@[simp] theorem State.readReg_trh (s : State) : s.readReg .trh = s.trh := rfl
@[simp] theorem State.readReg_sp (s : State) : s.readReg .sp = s.sp := rfl

theorem State.readReg_writeReg (s : State) (r r' : Reg) (v : Byte) :
    (s.writeReg r v).readReg r' = if r' = r then v else s.readReg r' := by
  cases r <;> cases r' <;> simp [State.writeReg, State.readReg]

@[simp] theorem State.writeReg_pc (s : State) (r : Reg) (v : Byte) : (s.writeReg r v).pc = s.pc := by cases r <;> rfl
@[simp] theorem State.writeReg_data (s : State) (r : Reg) (v : Byte) : (s.writeReg r v).data = s.data := by cases r <;> rfl
@[simp] theorem State.writeReg_rom (s : State) (r : Reg) (v : Byte) : (s.writeReg r v).rom = s.rom := by cases r <;> rfl
@[simp] theorem State.writeReg_refused (s : State) (r : Reg) (v : Byte) : (s.writeReg r v).refused = s.refused := by
  cases r <;> rfl
@[simp] theorem State.writeReg_params (s : State) (r : Reg) (v : Byte) : (s.writeReg r v).params = s.params := by
  cases r <;> rfl

@[simp] theorem State.readReg_setData (s : State) (m : Memory) (r : Reg) : (s.setData m).readReg r = s.readReg r := by
  cases r <;> rfl
@[simp] theorem State.readReg_setPc (s : State) (v : CodeAddr) (r : Reg) : (s.setPc v).readReg r = s.readReg r := by
  cases r <;> rfl
@[simp] theorem State.readReg_advance (s : State) (n : Nat) (r : Reg) : (s.advance n).readReg r = s.readReg r := by
  cases r <;> rfl

/-- The overlay depends on the parameters alone. -/
theorem State.sfrAt_congr {s t : State} (h : t.params = s.params) (a : DataAddr) : t.sfrAt a = s.sfrAt a := by
  simp [State.sfrAt, h]

@[simp] theorem State.setAcc_sfrAt (s : State) (v : Byte) (a : DataAddr) : (s.setAcc v).sfrAt a = s.sfrAt a := rfl
@[simp] theorem State.setB_sfrAt (s : State) (v : Byte) (a : DataAddr) : (s.setB v).sfrAt a = s.sfrAt a := rfl
@[simp] theorem State.setC_sfrAt (s : State) (v : Byte) (a : DataAddr) : (s.setC v).sfrAt a = s.sfrAt a := rfl
@[simp] theorem State.setPsw_sfrAt (s : State) (v : Byte) (a : DataAddr) : (s.setPsw v).sfrAt a = s.sfrAt a := rfl
@[simp] theorem State.setTrh_sfrAt (s : State) (v : Byte) (a : DataAddr) : (s.setTrh v).sfrAt a = s.sfrAt a := rfl
@[simp] theorem State.setTrl_sfrAt (s : State) (v : Byte) (a : DataAddr) : (s.setTrl v).sfrAt a = s.sfrAt a := rfl
@[simp] theorem State.setSp_sfrAt (s : State) (v : Byte) (a : DataAddr) : (s.setSp v).sfrAt a = s.sfrAt a := rfl
@[simp] theorem State.setPc_sfrAt (s : State) (v : CodeAddr) (a : DataAddr) : (s.setPc v).sfrAt a = s.sfrAt a := rfl
@[simp] theorem State.setData_sfrAt (s : State) (v : Memory) (a : DataAddr) : (s.setData v).sfrAt a = s.sfrAt a := rfl
@[simp] theorem State.advance_sfrAt (s : State) (v : Nat) (a : DataAddr) : (s.advance v).sfrAt a = s.sfrAt a := rfl

@[simp] theorem State.memWrite_pc (s : State) (a : DataAddr) (v : Byte) : (s.memWrite a v).pc = s.pc := by
  unfold State.memWrite; split <;> simp
@[simp] theorem State.memWrite_rom (s : State) (a : DataAddr) (v : Byte) : (s.memWrite a v).rom = s.rom := by
  unfold State.memWrite; split <;> simp
@[simp] theorem State.memWrite_refused (s : State) (a : DataAddr) (v : Byte) : (s.memWrite a v).refused = s.refused := by
  unfold State.memWrite; split <;> simp
@[simp] theorem State.memWrite_params (s : State) (a : DataAddr) (v : Byte) : (s.memWrite a v).params = s.params := by
  unfold State.memWrite; split <;> simp

@[simp] theorem State.memWrite_sfrAt (s : State) (a : DataAddr) (v : Byte) (a' : DataAddr) :
    (s.memWrite a v).sfrAt a' = s.sfrAt a' := State.sfrAt_congr (s.memWrite_params a v) a'

/-- MemWrite and the registers (R34): the register mapped at the address takes the byte, every other keeps its value. -/
theorem State.readReg_memWrite (s : State) (a : DataAddr) (v : Byte) (r : Reg) :
    (s.memWrite a v).readReg r = if s.sfrAt a = some r then v else s.readReg r := by
  unfold State.memWrite
  cases h : s.sfrAt a with
  | none => simp
  | some r' => simp [State.readReg_writeReg, eq_comm]

/-- MemWrite and the cells (R34): an unmapped address's cell takes the byte, every other keeps its value. -/
theorem State.cell_memWrite (s : State) (a : DataAddr) (v : Byte) (k : Nat) :
    (s.memWrite a v).data.read k = if s.sfrAt a = none ∧ k = a.toNat then v else s.data.read k := by
  unfold State.memWrite
  cases h : s.sfrAt a with
  | none => simp [Memory.read_write]
  | some r => simp

/-- The 16-bit argument of `mul` and `div` as a number. -/
theorem State.accC_toNat (s : State) : s.accC.toNat = s.acc.toNat * 256 + s.c.toNat := by
  have h : (s.acc ++ s.c : BitVec (8 + 8)).toNat = s.acc.toNat <<< 8 ||| s.c.toNat := BitVec.toNat_append s.acc s.c
  have hc := s.c.isLt
  rw [← Nat.shiftLeft_add_eq_or_of_lt hc, Nat.shiftLeft_eq] at h
  exact h

/-- MemWrite keeps the data space's canonical form. -/
theorem State.wf_memWrite (s : State) (a : DataAddr) (v : Byte) (h : Memory.wf 512 s.data) :
    Memory.wf 512 (s.memWrite a v).data := by
  unfold State.memWrite
  cases s.sfrAt a with
  | none => exact Memory.wf_write h a.isLt v
  | some r => simpa using h

end Sys2Proof.Machine
end

