-- ==== Sys2Proof/Laws/PerInstr.lean ====
section
/-! SUPPORT. A statement made for every instruction, one lemma per constructor: the encoding of an instruction has the length the
spec's tables give its form (R50), and its operands are in range (R57). -/

namespace Sys2Proof.Laws.EncodedLength

/-- The encoding has the form's length, and the instruction is well-formed. -/
def Statement (i : Instr) : Prop := (encode i).length = i.length ∧ i.wellFormed = true

theorem addImm (v : Byte) : Statement (.addImm v) := ⟨rfl, decide_eq_true v.isLt⟩
theorem addDir (a : DataAddr) : Statement (.addDir a) := ⟨rfl, decide_eq_true a.isLt⟩
theorem addInd (i : IndReg) : Statement (.addInd i) := ⟨rfl, decide_eq_true i.isLt⟩
theorem addcImm (v : Byte) : Statement (.addcImm v) := ⟨rfl, decide_eq_true v.isLt⟩
theorem addcDir (a : DataAddr) : Statement (.addcDir a) := ⟨rfl, decide_eq_true a.isLt⟩
theorem addcInd (i : IndReg) : Statement (.addcInd i) := ⟨rfl, decide_eq_true i.isLt⟩
theorem subImm (v : Byte) : Statement (.subImm v) := ⟨rfl, decide_eq_true v.isLt⟩
theorem subDir (a : DataAddr) : Statement (.subDir a) := ⟨rfl, decide_eq_true a.isLt⟩
theorem subInd (i : IndReg) : Statement (.subInd i) := ⟨rfl, decide_eq_true i.isLt⟩
theorem subcImm (v : Byte) : Statement (.subcImm v) := ⟨rfl, decide_eq_true v.isLt⟩
theorem subcDir (a : DataAddr) : Statement (.subcDir a) := ⟨rfl, decide_eq_true a.isLt⟩
theorem subcInd (i : IndReg) : Statement (.subcInd i) := ⟨rfl, decide_eq_true i.isLt⟩
theorem incDir (a : DataAddr) : Statement (.incDir a) := ⟨rfl, decide_eq_true a.isLt⟩
theorem incInd (i : IndReg) : Statement (.incInd i) := ⟨rfl, decide_eq_true i.isLt⟩
theorem decDir (a : DataAddr) : Statement (.decDir a) := ⟨rfl, decide_eq_true a.isLt⟩
theorem decInd (i : IndReg) : Statement (.decInd i) := ⟨rfl, decide_eq_true i.isLt⟩
theorem mul : Statement (.mul) := ⟨rfl, rfl⟩
theorem div : Statement (.div) := ⟨rfl, rfl⟩
theorem andImm (v : Byte) : Statement (.andImm v) := ⟨rfl, decide_eq_true v.isLt⟩
theorem andDir (a : DataAddr) : Statement (.andDir a) := ⟨rfl, decide_eq_true a.isLt⟩
theorem andInd (i : IndReg) : Statement (.andInd i) := ⟨rfl, decide_eq_true i.isLt⟩
theorem orImm (v : Byte) : Statement (.orImm v) := ⟨rfl, decide_eq_true v.isLt⟩
theorem orDir (a : DataAddr) : Statement (.orDir a) := ⟨rfl, decide_eq_true a.isLt⟩
theorem orInd (i : IndReg) : Statement (.orInd i) := ⟨rfl, decide_eq_true i.isLt⟩
theorem xorImm (v : Byte) : Statement (.xorImm v) := ⟨rfl, decide_eq_true v.isLt⟩
theorem xorDir (a : DataAddr) : Statement (.xorDir a) := ⟨rfl, decide_eq_true a.isLt⟩
theorem xorInd (i : IndReg) : Statement (.xorInd i) := ⟨rfl, decide_eq_true i.isLt⟩
theorem rol : Statement (.rol) := ⟨rfl, rfl⟩
theorem rolc : Statement (.rolc) := ⟨rfl, rfl⟩
theorem ror : Statement (.ror) := ⟨rfl, rfl⟩
theorem rorc : Statement (.rorc) := ⟨rfl, rfl⟩
theorem ldDir (a : DataAddr) : Statement (.ldDir a) := ⟨rfl, decide_eq_true a.isLt⟩
theorem ldInd (i : IndReg) : Statement (.ldInd i) := ⟨rfl, decide_eq_true i.isLt⟩
theorem stDir (a : DataAddr) : Statement (.stDir a) := ⟨rfl, decide_eq_true a.isLt⟩
theorem stInd (i : IndReg) : Statement (.stInd i) := ⟨rfl, decide_eq_true i.isLt⟩
theorem movDir (v : Byte) (a : DataAddr) : Statement (.movDir v a) := ⟨rfl, Bool.and_eq_true_iff.mpr ⟨decide_eq_true v.isLt, decide_eq_true a.isLt⟩⟩
theorem movInd (v : Byte) (i : IndReg) : Statement (.movInd v i) := ⟨rfl, Bool.and_eq_true_iff.mpr ⟨decide_eq_true v.isLt, decide_eq_true i.isLt⟩⟩
theorem ldc : Statement (.ldc) := ⟨rfl, rfl⟩
theorem pushDir (a : DataAddr) : Statement (.pushDir a) := ⟨rfl, decide_eq_true a.isLt⟩
theorem popDir (a : DataAddr) : Statement (.popDir a) := ⟨rfl, decide_eq_true a.isLt⟩
theorem xchDir (a : DataAddr) : Statement (.xchDir a) := ⟨rfl, decide_eq_true a.isLt⟩
theorem xchInd (i : IndReg) : Statement (.xchInd i) := ⟨rfl, decide_eq_true i.isLt⟩

end Sys2Proof.Laws.EncodedLength
end

