-- ==== Sys2Proof/Laws/Step.lean ====
section
/-! SUPPORT. Inversion of fetching and of a step: everything each can answer, said once. -/

namespace Sys2Proof.Machine

theorem lookupRow_mem {b0 : Byte} {r : OpRow} (h : lookupRow b0 = some r) : r ∈ opcodeTable := List.mem_of_find?_eq_some h

/-- What a row builds has the row's length, between 1 and 3 bytes. -/
theorem build_length {r : OpRow} (h : r ∈ opcodeTable) (b0 b1 b2 : Byte) :
    (r.build b0 b1 b2).length = r.length ∧ 1 ≤ r.length ∧ r.length ≤ 3 := by
  have all : ∀ r ∈ opcodeTable, (r.build b0 b1 b2).length = r.length ∧ 1 ≤ r.length ∧ r.length ≤ 3 := by
    simp [opcodeTable, arithmeticRows, bitwiseRows, storageRows, rowInh, rowImm, rowDir, rowInd, rowDirImm, rowIndImm,
      Instr.length]
  exact all r h

theorem fetchBytes_length (s : State) (a : CodeAddr) (n : Nat) : (s.fetchBytes a n).length = n := by
  induction n generalizing a with
  | zero => rfl
  | succ n ih => simp [State.fetchBytes, ih]

/-- Everything `decode` can answer with an instruction for. -/
theorem decode_ok {l rest : List Byte} {i : Instr} (h : decode l = .ok (i, rest)) :
    ∃ b0 tail r, l = b0 :: tail ∧ lookupRow b0 = some r ∧ r.length ≤ tail.length + 1 ∧
      i = r.build b0 (tail.getD 0 0) (tail.getD 1 0) ∧ rest = tail.drop (r.length - 1) := by
  cases l with
  | nil => cases h
  | cons b0 tail =>
    unfold decode at h
    cases hr : lookupRow b0 with
    | none => simp [hr] at h
    | some r =>
      simp only [hr] at h
      split at h
      · cases h
      next hlen =>
        injection h with h
        injection h with h1 h2
        exact ⟨b0, tail, r, rfl, hr, by omega, h1.symm, h2.symm⟩

/-- Everything `fetchInstr` can answer (R25 steps 2 to 4). -/
theorem State.fetchInstr_cases (s : State) :
    (lookupRow (s.fetch s.pc) = none ∧ s.fetchInstr = .error (.undocumentedOpcode (s.fetch s.pc))) ∨
    (∃ r, lookupRow (s.fetch s.pc) = some r ∧ 0x10000 ≤ s.pc.toNat + r.length ∧ s.fetchInstr = .error .pcWrap) ∨
    (∃ r, lookupRow (s.fetch s.pc) = some r ∧ s.pc.toNat + r.length < 0x10000 ∧
      ∃ i, decode (s.fetchBytes s.pc r.length) = .ok (i, []) ∧ i.length = r.length ∧ s.fetchInstr = .ok i) := by
  unfold State.fetchInstr
  cases hr : lookupRow (s.fetch s.pc) with
  | none => exact .inl ⟨rfl, rfl⟩
  | some r =>
    by_cases hw : 0x10000 ≤ s.pc.toNat + r.length
    · exact .inr (.inl ⟨r, rfl, hw, by simp [hw]⟩)
    · refine .inr (.inr ⟨r, rfl, Nat.lt_of_not_le hw, ?_⟩)
      obtain ⟨hb, h1, -⟩ := build_length (lookupRow_mem hr) (s.fetch s.pc)
        ((s.fetchBytes (s.pc + 1) (r.length - 1)).getD 0 0) ((s.fetchBytes (s.pc + 1) (r.length - 1)).getD 1 0)
      obtain ⟨n, hn⟩ : ∃ n, r.length = n + 1 := ⟨r.length - 1, by omega⟩
      have hd : decode (s.fetchBytes s.pc r.length) =
          .ok (r.build (s.fetch s.pc) ((s.fetchBytes (s.pc + 1) (r.length - 1)).getD 0 0)
            ((s.fetchBytes (s.pc + 1) (r.length - 1)).getD 1 0), []) := by
        simp [hn, State.fetchBytes, decode, hr, fetchBytes_length]
      exact ⟨_, hd, hb, by simp [hw, hd]⟩

/-- Everything a step that goes on is: an instruction fetched inside the ROM space and executed. -/
theorem step_next {s t : State} (h : step s = .next t) :
    s.refused = false ∧ s.params.haltPc ≠ some s.pc ∧ ∃ i, s.fetchInstr = .ok i ∧ exec i s = .next t := by
  unfold step at h
  split at h
  · cases h
  next hr =>
    split at h
    · cases h
    next hh =>
      split at h
      · cases h
      next i hf => exact ⟨by simpa using hr, hh, i, hf, h⟩

/-- A fetched instruction fits below the end of the ROM space. -/
theorem State.fetchInstr_fits {s : State} {i : Instr} (h : s.fetchInstr = .ok i) :
    1 ≤ i.length ∧ i.length ≤ 3 ∧ s.pc.toNat + i.length < 0x10000 := by
  rcases s.fetchInstr_cases with ⟨-, e⟩ | ⟨r, -, -, e⟩ | ⟨r, hr, hw, j, -, hl, e⟩
  · rw [h] at e; cases e
  · rw [h] at e; cases e
  · rw [h] at e
    injection e with e
    obtain ⟨-, h1, h3⟩ := build_length (lookupRow_mem hr) 0 0 0
    subst e
    omega

/-- A run of one more step, of any machine behind the host's interface: a step that goes on, then the rest. -/
theorem run_succ_of_core {M : Host.Core} {n : Nat} {s t : M.State} (h : M.run (n + 1) s = .next t) :
    ∃ u, M.step s = .next u ∧ M.run n u = .next t := by
  unfold Host.Core.run at h
  split at h
  next u hu => exact ⟨u, hu, h⟩
  next => cases h
  next => cases h

/-- A run of one more step of this machine. -/
theorem run_succ {n : Nat} {s t : State} (h : Host.Core.run Sys2Proof.core (n + 1) s = .next t) :
    ∃ u, step s = .next u ∧ Host.Core.run Sys2Proof.core n u = .next t := run_succ_of_core h

/-- A step that goes on is the first of the marked run. -/
theorem runMarked_succ_next {n : Nat} {s t : State} (h : step s = .next t) : runMarked (n + 1) s = runMarked n t := by
  simp [runMarked, h]

/-- A refused step ends the marked run with the mark. -/
theorem runMarked_succ_refused {n : Nat} {s : State} {r : Refusal} (h : step s = .refused r) :
    runMarked (n + 1) s = s.markRefused := by simp [runMarked, h]

/-- A fault ends the marked run as it stands. -/
theorem runMarked_succ_fault {n : Nat} {s : State} {f : Fault} (h : step s = .fault f) : runMarked (n + 1) s = s := by
  simp [runMarked, h]

end Sys2Proof.Machine
end

