-- ==== Sys2Proof/Tests/Slice0.lean ====
section
/-! SUPPORT. Tests on fixed values, their expected results from 95_test_vectors.md and the rules' own examples; and a witness for
the hypotheses of each statement. -/

namespace Sys2Proof.Tests

open Machine

/-! Well-formedness: an ill-formed term for each check. -/

theorem test_wellFormed_d9 : inRangeD9 512 = false ∧ inRangeD9 511 = true := by decide
theorem test_wellFormed_i8 : inRangeI8 256 = false ∧ inRangeI8 255 = true := by decide
theorem test_wellFormed_ri : inRangeRi 4 = false ∧ inRangeRi 3 = true := by decide
theorem test_wellFormed_pswLayout :
    PswLayout.wellFormed ⟨7, 7, 2⟩ = false ∧ PswLayout.wellFormed ⟨7, 6, 7⟩ = false ∧
    PswLayout.wellFormed ⟨7, 2, 2⟩ = false ∧ PswLayout.wellFormed ⟨7, 6, 2⟩ = true := by decide
theorem test_wellFormed_sfrMap :
    SfrMap.wellFormed ⟨some 5, none, none, some 5, none, none, none⟩ = false ∧
    SfrMap.wellFormed Launch.sfrMap = true := by decide
theorem test_wellFormed_memory :
    ¬ Memory.wf 512 [(4, 1), (3, 1)] ∧ ¬ Memory.wf 512 [(3, 0)] ∧ ¬ Memory.wf 512 [(512, 1)] ∧
    Memory.wf 512 [(3, 1), (511, 2)] := by decide

/-! Decoding: words written out in 95_test_vectors.md section 2.1. -/

/-- The bytes decode to the instruction with nothing left, the instruction encodes to the bytes, and its length is theirs. -/
def codes (bytes : List Byte) (i : Instr) : Bool :=
  (match decode bytes with
   | .ok (j, []) => decide (j = i)
   | _ => false) && decide (encode i = bytes) && decide (i.length = bytes.length)

theorem test_code_add : codes [0x81, 0x5A] (.addImm 0x5A) ∧ codes [0x82, 0x45] (.addDir 0x045) ∧
    codes [0x83, 0xA3] (.addDir 0x1A3) ∧ codes [0x86] (.addInd 2) := by decide
theorem test_code_addc : codes [0x91, 0x5A] (.addcImm 0x5A) ∧ codes [0x92, 0x45] (.addcDir 0x045) ∧
    codes [0x93, 0xA3] (.addcDir 0x1A3) ∧ codes [0x96] (.addcInd 2) := by decide
theorem test_code_sub : codes [0xA1, 0x5A] (.subImm 0x5A) ∧ codes [0xA2, 0x45] (.subDir 0x045) ∧
    codes [0xA3, 0xA3] (.subDir 0x1A3) ∧ codes [0xA6] (.subInd 2) := by decide
theorem test_code_subc : codes [0xB1, 0x5A] (.subcImm 0x5A) ∧ codes [0xB2, 0x45] (.subcDir 0x045) ∧
    codes [0xB3, 0xA3] (.subcDir 0x1A3) ∧ codes [0xB6] (.subcInd 2) := by decide
theorem test_code_inc : codes [0x62, 0x00] (.incDir 0x000) ∧ codes [0x63, 0xFF] (.incDir 0x1FF) ∧
    codes [0x64] (.incInd 0) ∧ codes [0x67] (.incInd 3) := by decide
theorem test_code_dec : codes [0x72, 0x00] (.decDir 0x000) ∧ codes [0x73, 0xFF] (.decDir 0x1FF) ∧
    codes [0x74] (.decInd 0) ∧ codes [0x77] (.decInd 3) := by decide
theorem test_code_mul_div : codes [0x30] .mul ∧ codes [0x40] .div := by decide
theorem test_code_and : codes [0xE1, 0xFF] (.andImm 0xFF) ∧ codes [0xE2, 0xFF] (.andDir 0x0FF) ∧
    codes [0xE3, 0x00] (.andDir 0x100) ∧ codes [0xE5] (.andInd 1) := by decide
theorem test_code_or : codes [0xD1, 0xFF] (.orImm 0xFF) ∧ codes [0xD2, 0xFF] (.orDir 0x0FF) ∧
    codes [0xD3, 0x00] (.orDir 0x100) ∧ codes [0xD5] (.orInd 1) := by decide
theorem test_code_xor : codes [0xF1, 0xFF] (.xorImm 0xFF) ∧ codes [0xF2, 0xFF] (.xorDir 0x0FF) ∧
    codes [0xF3, 0x00] (.xorDir 0x100) ∧ codes [0xF5] (.xorInd 1) := by decide
theorem test_code_rotates : codes [0xE0] .rol ∧ codes [0xF0] .rolc ∧ codes [0xC0] .ror ∧ codes [0xD0] .rorc := by decide
theorem test_code_ld : codes [0x02, 0x7F] (.ldDir 0x07F) ∧ codes [0x03, 0x80] (.ldDir 0x180) ∧
    codes [0x04] (.ldInd 0) ∧ codes [0x07] (.ldInd 3) := by decide
theorem test_code_st : codes [0x12, 0x7F] (.stDir 0x07F) ∧ codes [0x13, 0x80] (.stDir 0x180) ∧
    codes [0x14] (.stInd 0) ∧ codes [0x17] (.stInd 3) := by decide
theorem test_code_mov : codes [0x22, 0x34, 0x12] (.movDir 0x12 0x034) ∧ codes [0x23, 0xDC, 0xFE] (.movDir 0xFE 0x1DC) ∧
    codes [0x24, 0x80] (.movInd 0x80 0) ∧ codes [0x27, 0x01] (.movInd 0x01 3) := by decide
theorem test_code_ldc : codes [0xC1] .ldc := by decide
theorem test_code_push_pop : codes [0x60, 0x02] (.pushDir 0x002) ∧ codes [0x61, 0x01] (.pushDir 0x101) ∧
    codes [0x70, 0x02] (.popDir 0x002) ∧ codes [0x71, 0x01] (.popDir 0x101) := by decide
theorem test_code_xch : codes [0xC2, 0x55] (.xchDir 0x055) ∧ codes [0xC3, 0x55] (.xchDir 0x155) ∧
    codes [0xC6] (.xchInd 2) := by decide

/-- The refused first bytes 95_test_vectors.md section 2.1 lists. -/
theorem test_decode_refuses :
    ([0x00, 0x01, 0x08, 0x0F, 0x10, 0x21, 0x2F, 0x31, 0x3F, 0x41, 0x50, 0x5F, 0x68, 0x7F, 0x80, 0x90, 0xA0, 0xB0, 0xB8, 0xC8,
      0xD8, 0xE8, 0xF8, 0xFF].all fun b => (lookupRow b).isNone) = true := by decide

/-- The table's numbers have byte 0 on top: rows `add #i8`, `mov #i8, d9`, `xch @Ri`; an unlisted first byte is none. -/
theorem test_tableWord : decodeTableWord 16 0x8100 = some (.addImm 0) ∧ decodeTableWord 24 0x2334A5 = some (.movDir 0xA5 0x134) ∧
    decodeTableWord 8 0xC6 = some (.xchInd 2) ∧ decodeTableWord 16 0x0081 = none := by decide

/-- Not one bit of the table's first bytes is read twice: 96 documented, 160 not (R54). -/
theorem test_documented_count :
    ((List.range 256).filter fun n => (lookupRow (BitVec.ofNat 8 n)).isSome).length = 96 := by decide

/-! One step on a small state. `bare` maps no register and has fixed indirect registers; `mapped` is the candidate map of annex G3.
Both have `psw_layout` (7, 6, 2), so `psw` 0x84 is `cy` = 1, `ac` = 0, `ov` = 1. -/

def noMap : SfrMap := ⟨none, none, none, none, none, none, none⟩

def bareParams : Params := ⟨noMap, ⟨7, 6, 2⟩, .fixed 0x020 0x1F0 0x100 0x040, none⟩

/-- A state with `acc`, `psw` and a list of cells. -/
def bare (acc psw : Byte) (data : Memory) : State :=
  { State.reset with acc := acc, psw := psw, data := data, params := bareParams }

/-- The same under the annex's map. -/
def mapped (acc psw : Byte) (data : Memory) : State :=
  { State.reset with acc := acc, psw := psw, data := data }

/-- The instruction answers a next state with the property. -/
def gives (i : Instr) (s : State) (p : State → Bool) : Bool :=
  match exec i s with
  | .next t => p t
  | _ => false

/-- `acc` and the three flags. -/
def accFlags (t : State) : Byte × Bool × Bool × Bool := (t.acc, t.cy, t.ac, t.ov)

theorem test_add_carries : gives (.addImm 0xC8) (bare 0x3C 0x84 []) fun t =>
    accFlags t = (0x04, true, true, false) ∧ t.pc = 2 := by decide
theorem test_add_overflows : gives (.addDir 0x045) (bare 0x80 0x00 [(0x045, 0x80)]) fun t =>
    accFlags t = (0x00, true, false, true) := by decide
theorem test_addc_all_ones : gives (.addcImm 0xFF) (bare 0xFF 0x80 []) fun t =>
    accFlags t = (0xFF, true, true, false) := by decide
theorem test_addc_psw_operand : gives (.addcDir 0x101) (mapped 0x01 0x80 []) fun t =>
    accFlags t = (0x82, false, false, false) := by decide
theorem test_sub_borrows : gives (.subInd 0) (bare 0x3C 0x00 [(0x020, 0xC8)]) fun t =>
    accFlags t = (0x74, true, false, false) ∧ t.pc = 1 := by decide
theorem test_sub_overflows : gives (.subImm 0x01) (bare 0x80 0x80 []) fun t =>
    accFlags t = (0x7F, false, true, true) := by decide
theorem test_subc_borrow_in : gives (.subcImm 0xFF) (bare 0x00 0x80 []) fun t =>
    accFlags t = (0x00, true, true, false) := by decide
theorem test_subc_half : gives (.subcImm 0x10) (bare 0x20 0x80 []) fun t =>
    accFlags t = (0x0F, false, true, false) := by decide
theorem test_inc_wraps : gives (.incDir 0x045) (bare 0x33 0x84 [(0x045, 0xFF)]) fun t =>
    t.data = [] ∧ accFlags t = (0x33, true, false, true) := by decide
theorem test_inc_indirect : gives (.incInd 1) (bare 0x33 0x84 [(0x1F0, 0x0F)]) fun t => t.data = [(0x1F0, 0x10)] := by decide
theorem test_inc_mapped_acc : gives (.incDir 0x100) (mapped 0xFF 0x84 []) fun t =>
    accFlags t = (0x00, true, false, true) := by decide
theorem test_dec_wraps : gives (.decDir 0x1FF) (bare 0x33 0x84 []) fun t =>
    t.data = [(0x1FF, 0xFF)] ∧ accFlags t = (0x33, true, false, true) := by decide
theorem test_mul_large : gives .mul { bare 0x12 0xC4 [] with b := 0x10, c := 0x34 } fun t =>
    (t.b, t.c) = (0x01, 0x40) ∧ accFlags t = (0x23, false, true, true) := by decide
theorem test_mul_max : gives .mul { bare 0xFF 0x00 [] with b := 0xFF, c := 0xFF } fun t =>
    (t.b, t.acc, t.c) = (0xFE, 0xFF, 0x01) := by decide
theorem test_div_remainder : gives .div { bare 0x12 0xC4 [] with b := 0x10, c := 0x34 } fun t =>
    (t.b, t.c) = (0x04, 0x23) ∧ accFlags t = (0x01, false, true, false) := by decide
theorem test_div_exact : gives .div { bare 0xFF 0x80 [] with b := 0xFF, c := 0xFF } fun t =>
    (t.b, t.c) = (0x00, 0x01) ∧ accFlags t = (0x01, false, false, true) := by decide
/-- R81 fixes `cy` and `ac` only. -/
theorem test_div_zero_goes_on : ∃ t, exec .div { bare 0x12 0x80 [] with c := 0x34 } = .next t ∧ t.pc = 1 := ⟨_, rfl, rfl⟩
theorem test_and : gives (.andImm 0x3C) (bare 0xF0 0x84 []) fun t => accFlags t = (0x30, true, false, true) := by decide
theorem test_or : gives (.orInd 0) (bare 0xF0 0x84 [(0x020, 0x3C)]) fun t => t.acc = 0xFC := by decide
theorem test_xor : gives (.xorDir 0x020) (bare 0xF0 0x84 [(0x020, 0x3C)]) fun t => t.acc = 0xCC := by decide
theorem test_rol : gives .rol (bare 0x81 0x00 []) fun t => accFlags t = (0x03, false, false, false) := by decide
theorem test_ror : gives .ror (bare 0x81 0x00 []) fun t => accFlags t = (0xC0, false, false, false) := by decide
theorem test_rolc : gives .rolc (bare 0x55 0x80 []) fun t => accFlags t = (0xAB, false, false, false) := by decide
theorem test_rorc : gives .rorc (bare 0x55 0x04 []) fun t => accFlags t = (0x2A, true, false, true) := by decide
theorem test_ld : gives (.ldDir 0x120) (bare 0x00 0x84 [(0x120, 0xAB)]) fun t =>
    accFlags t = (0xAB, true, false, true) := by decide
theorem test_ld_psw : gives (.ldDir 0x101) (mapped 0x00 0x84 []) fun t => t.acc = 0x84 := by decide
theorem test_st : gives (.stInd 0) (bare 0x5A 0x00 []) fun t => t.data = [(0x020, 0x5A)] ∧ t.acc = 0x5A := by decide
theorem test_st_psw : gives (.stDir 0x101) (mapped 0x84 0x00 []) fun t =>
    accFlags t = (0x84, true, false, true) ∧ t.data = [] := by decide
theorem test_mov_direct : gives (.movDir 0x7E 0x101) (bare 0x33 0x00 []) fun t =>
    t.data = [(0x101, 0x7E)] ∧ t.acc = 0x33 ∧ t.pc = 3 := by decide
theorem test_mov_indirect : gives (.movInd 0x80 0) (bare 0x33 0x00 []) fun t =>
    t.data = [(0x020, 0x80)] ∧ t.pc = 2 := by decide
theorem test_ldc : gives .ldc { bare 0x20 0x84 [] with trh := 0x12, trl := 0xF0, rom := [(0x1310, 0x99)] } fun t =>
    accFlags t = (0x99, true, false, true) ∧ t.tr = 0x12F0 := by decide
theorem test_ldc_wraps : gives .ldc { bare 0x02 0x84 [] with trh := 0xFF, trl := 0xFF, rom := [(0x0001, 0x77)] } fun t =>
    t.acc = 0x77 := by decide
theorem test_push : gives (.pushDir 0x045) { bare 0x33 0x84 [(0x045, 0x11)] with sp := 0x7F } fun t =>
    t.sp = 0x80 ∧ t.data = [(0x045, 0x11), (0x080, 0x11)] := by decide
theorem test_push_wraps : gives (.pushDir 0x045) { bare 0x33 0x84 [(0x045, 0x11)] with sp := 0xFF } fun t =>
    t.sp = 0x00 ∧ t.data = [(0x000, 0x11), (0x045, 0x11)] := by decide
theorem test_pop : gives (.popDir 0x046) { bare 0x33 0x84 [(0x080, 0x11)] with sp := 0x80 } fun t =>
    t.sp = 0x7F ∧ t.data = [(0x046, 0x11), (0x080, 0x11)] ∧ t.acc = 0x33 := by decide
theorem test_pop_wraps : gives (.popDir 0x046) { bare 0x33 0x84 [(0x000, 0x22)] with sp := 0x00 } fun t =>
    t.sp = 0xFF ∧ t.data = [(0x000, 0x22), (0x046, 0x22)] := by decide
theorem test_push_beside_sp : gives (.pushDir 0x105) (mapped 0x33 0x84 []) fun t => t.sp = 0x01 := by decide
theorem test_xch : gives (.xchDir 0x045) (bare 0x01 0x84 [(0x045, 0x02)]) fun t =>
    accFlags t = (0x02, true, false, true) ∧ t.data = [(0x045, 0x01)] := by decide
theorem test_xch_mapped_acc : gives (.xchDir 0x100) (mapped 0x5A 0x00 []) fun t => t.acc = 0x5A := by decide
/-- Annex G5: `@R2` with the bank bits 4 and 3 of `psw` at 1 reads its pointer at data address 6. -/
theorem test_banked_pointer : (mapped 0x00 0x08 [(0x006, 0x45)]).indAddr 2 = 0x145 := by decide

/-! Steps. -/

/-- `rol` at 0xFFFF is refused, at 0xFFFE it is not (95_test_vectors.md section 2.1). -/
theorem test_pcWrap :
    (match step { bare 0 0 [] with pc := 0xFFFF, rom := [(0xFFFF, 0xE0)] } with | .refused .pcWrap => true | _ => false) = true ∧
    (match step { bare 0 0 [] with pc := 0xFFFE, rom := [(0xFFFE, 0xE0)] } with | .next t => decide (t.pc = 0xFFFF) | _ => false) = true
    := by decide
/-- Program P4: byte 0x00 at 0x0002 is refused. -/
theorem test_undocumented_byte :
    (match step { bare 0 0 [] with pc := 0x0002, rom := [(0x0000, 0x02), (0x0001, 0x10)] } with
     | .refused (.undocumentedOpcode b0) => decide (b0 = 0x00) | _ => false) = true := by decide
/-- The end of a run: the byte at `halt_pc` is not fetched (R193). -/
theorem test_halt :
    (match step { bare 0 0 [] with params := { bareParams with haltPc := some 0x0000 } } with
     | .fault .runEnded => true | _ => false) = true := by decide
/-- An instruction placed with `withFetchWord` is the first one run after reset. -/
theorem test_withFetchWord :
    (match step (State.reset.withFetchWord 24 0x237E5A) with
     | .next t => decide (t.data = [(0x17E, 0x5A)] ∧ t.pc = 3) | _ => false) = true := by decide

/-! Assembler. -/

theorem test_asm_direct : (match assembleText [] "add $1A3" with | .ok i => decide (i = .addDir 0x1A3) | _ => false) = true := by decide
theorem test_asm_symbol :
    (match assembleText [("my_variable", 3)] "mov #my_variable + 2, @R3" with
     | .ok i => decide (i = .movInd 5 3) | _ => false) = true := by decide
theorem test_asm_named_only :
    (match assembleText [] "jmp $45" with | .error (.undocumentedMnemonic w) => decide (w = "jmp") | _ => false) = true := by decide
/-- R133, R64: the word is refused by name though its argument cannot be read; and so is a word that is no mnemonic. -/
theorem test_asm_named_only_unreadable :
    (match assembleText [] "br -5" with | .error (.undocumentedMnemonic w) => decide (w = "br") | _ => false) = true ∧
    (match assembleText [] "foo = 5" with | .error (.undocumentedMnemonic w) => decide (w = "foo") | _ => false) = true := by
  decide
theorem test_asm_unreadable_argument :
    (match assembleText [] "ld -5" with | .error .badSyntax => true | _ => false) = true := by decide
/-- R64: the refused line's number. -/
theorem test_asm_line_number :
    (match assembleSource [] "ld $10\n\nbp $45, 3, -5" with
     | .error (n, .undocumentedMnemonic w) => decide (n = 3 ∧ w = "bp") | _ => false) = true := by decide
theorem test_asm_range :
    (match assembleText [] "ld $200" with | .error (.outOfRange n) => decide (n = 512) | _ => false) = true := by decide
/-- Program P1, its first two lines. -/
theorem test_asm_lines :
    (match assembleLines [] 1 [⟨"ld", [.direct (.num 0x010)]⟩, ⟨"add", [.direct (.num 0x012)]⟩] with
     | .ok l => decide (l = [0x02, 0x10, 0x82, 0x12]) | _ => false) = true := by decide

/-! Witnesses: states and operands that meet the hypotheses of each statement, and of its separate clauses. -/

/-- AddCompletes, AddcCompletes, SubCompletes, SubcCompletes, MulCompletes, RolcCompletes, RorcCompletes; with a zero divisor,
DivByZeroCompletes. -/
theorem witness_layout : State.reset.params.pswLayout.wellFormed = true ∧ State.reset.b = 0 := by decide
/-- DivCompletes, at the least divisor. -/
theorem witness_divisor : (State.reset.setB 1).params.pswLayout.wellFormed = true ∧ (State.reset.setB 1).b ≠ 0 := by decide
/-- The clauses on `psw` of IncDecComplete, StCompletes, MovCompletes, PopCompletes and XchCompletes, on both sides. -/
theorem witness_psw_clauses : State.reset.sfrAt 0x101 = some .psw ∧ State.reset.sfrAt 0x100 ≠ some .psw ∧
    ({ State.reset with params := { Launch.params with indRule := .fixed 0x101 0 0 0 } }).indAddr 0 = 0x101 := by decide
/-- PushCompletes, PopCompletes and PushPopOfSpRefused: addresses beside `sp` and `sp` itself. -/
theorem witness_push_pop : State.reset.sfrAt 0x105 ≠ some .sp ∧ State.reset.sfrAt 0x107 ≠ some .sp ∧
    State.reset.sfrAt 0x106 = some .sp := by decide
/-- PushCompletes where the stack cell is `sp` itself, and where it is not. -/
theorem witness_stack_is_sp :
    ({ State.reset with params := { Launch.params with sfrMap := { noMap with sp := some 0x001 } } }).sfrAt
      (stackAddr (State.reset.sp + 1)) = some .sp ∧
    State.reset.sfrAt (stackAddr (State.reset.sp + 1)) = none := by decide
/-- PushThenPopCopies. -/
theorem witness_push_then_pop : State.reset.sfrAt 0x045 ≠ some .sp ∧ State.reset.sfrAt 0x046 ≠ some .sp ∧
    State.reset.sfrAt (stackAddr (State.reset.sp + 1)) = none := by decide
/-- DecodedBytesAreTheEncoding, FieldsAreAssembledFromTheBytes. -/
theorem witness_decodes : decode [0x23, 0xDC, 0xFE] = .ok (.movDir 0xFE 0x1DC, []) ∧
    decode [0x27, 0x01, 0x00] = .ok (.movInd 0x01 3, [0x00]) := ⟨rfl, rfl⟩
/-- SfrMapIsAnyPartialInjection: a map with a register, and an injection that is no map's field order. -/
theorem witness_sfr_lookup : SfrMap.lookup Launch.sfrMap 0x100 = some .acc := by decide
theorem witness_sfr_injection : ∀ (a a' : DataAddr) (r : Reg), (if a = 0x1FF then some Reg.acc else none) = some r →
    (if a' = 0x1FF then some Reg.acc else none) = some r → a = a' := by
  intro a a' r h h'
  have ha : a = 0x1FF := by by_contra hn; rw [if_neg hn] at h; cases h
  have ha' : a' = 0x1FF := by by_contra hn; rw [if_neg hn] at h'; cases h'
  exact ha.trans ha'.symm

/-- A state with `rol` at 0xFFFE, the last place a one-byte instruction can stand. -/
def rolAtEnd : State := { bare 0x81 0x00 [] with pc := 0xFFFE, rom := [(0xFFFE, 0xE0)] }
/-- A state with `rol` at 0xFFFF. -/
def rolPastEnd : State := { bare 0x81 0x00 [] with pc := 0xFFFF, rom := [(0xFFFF, 0xE0)] }

/-- StepRunsTheDecodedInstruction, at the last address; the documented clause of UndocumentedOpcodesRefused. -/
theorem witness_step : Ready rolAtEnd ∧ decode (rolAtEnd.fetchBytes rolAtEnd.pc 3) = .ok (.rol, [0x00, 0x00]) ∧
    Instr.rol.wellFormed = true ∧ rolAtEnd.pc.toNat + Instr.rol.length < 0x10000 ∧
    undocumentedByte (rolAtEnd.fetch rolAtEnd.pc) = false :=
  ⟨⟨rfl, by decide⟩, rfl, rfl, by decide, by decide⟩
/-- PcWrapRefused, at the first address that wraps. -/
theorem witness_pcWrap : Ready rolPastEnd ∧ decode (rolPastEnd.fetchBytes rolPastEnd.pc 3) = .ok (.rol, [0x00, 0x00]) ∧
    0x10000 ≤ rolPastEnd.pc.toNat + Instr.rol.length := ⟨⟨rfl, by decide⟩, rfl, by decide⟩
/-- UndocumentedOpcodesRefused, RefusalsAreTheClosedList. -/
theorem witness_undocumented : Ready State.reset ∧ undocumentedByte (State.reset.fetch State.reset.pc) = true ∧
    step State.reset = .refused (.undocumentedOpcode 0x00) := ⟨⟨rfl, by decide⟩, by decide, rfl⟩
/-- RegistersChangeOnlyAsTabled, CellsChangeOnlyWhereStored and TrIsWrittenOnlyThroughAnAlias: a store to `trl`, seen from the
registers and the cells beside it. -/
theorem witness_store : ∃ t, exec (.stDir 0x104) State.reset = .next t ∧ Reg.trh ∉ tabledWrites (Instr.stDir 0x104).mnemonic ∧
    (∀ a, storeAddr State.reset (.stDir 0x104) = some a → State.reset.sfrAt a ≠ some .trh) ∧
    (∀ a, storeAddr State.reset (.stDir 0x104) = some a → ¬ (State.reset.sfrAt a = none ∧ 0x105 = a.toNat)) := by
  refine ⟨_, rfl, by decide, ?_, ?_⟩ <;> (intro a h; cases h; decide)
/-- EveryStepKeepsTheInvariant, EveryStepAdvancesPcByTheLength. -/
theorem witness_inv : rolAtEnd.Inv ∧ ∃ t, step rolAtEnd = .next t := ⟨by decide, _, rfl⟩
/-- RunsAreBoundedByThePc, LaunchParametersNeverChange, NormalEndIsUnique. -/
theorem witness_run : ∃ t, EndsNormally 1 { rolAtEnd with params := { bareParams with haltPc := some 0xFFFF } } t :=
  ⟨_, rfl, by decide, rfl⟩
/-- AssemblerRefusesUndocumentedWords, both kinds of word. -/
theorem witness_words : "jmp" ∈ namedOnlyWords ∧ mnemonicWords.lookup "halt" = none ∧
    lineWord "jmp x - 1".toList = "jmp" := by decide
/-- AssemblerNamesTheRefusedLine. -/
theorem witness_refused_line : cutAt '\n' "rol\njmp".toList = ["rol".toList] ++ "jmp".toList :: [] ∧
    lineBytes [] "rol".toList = .ok [0xE0] ∧ lineBytes [] "jmp".toList = .error (.undocumentedMnemonic "jmp") :=
  ⟨by decide, rfl, rfl⟩
/-- RefusalMarksTheRun, a run that goes on and a run that is refused. -/
theorem witness_marked : rolAtEnd.refused = false ∧ (runMarked 1 rolAtEnd).refused = false ∧
    (runMarked 2 rolAtEnd).refused = true ∧ runMarked 2 rolAtEnd = runMarked 3 rolAtEnd := by decide

end Sys2Proof.Tests
end

/-! Whole-machine frame of the registers: what each shared operation leaves a register at, then the same over all
instructions, and from it the statement about `tr` (R13). -/

namespace Sys2Proof.Machine

section RegisterFrames
variable {s : State} {r : Reg}

/-! The registers beside the one a setter writes. -/

@[simp] theorem State.readReg_setAcc (v : Byte) (h : r ≠ .acc) : (s.setAcc v).readReg r = s.readReg r :=
  (s.readReg_writeReg .acc r v).trans (if_neg h)
@[simp] theorem State.readReg_setB (v : Byte) (h : r ≠ .b) : (s.setB v).readReg r = s.readReg r :=
  (s.readReg_writeReg .b r v).trans (if_neg h)
@[simp] theorem State.readReg_setC (v : Byte) (h : r ≠ .c) : (s.setC v).readReg r = s.readReg r :=
  (s.readReg_writeReg .c r v).trans (if_neg h)
@[simp] theorem State.readReg_setPsw (v : Byte) (h : r ≠ .psw) : (s.setPsw v).readReg r = s.readReg r :=
  (s.readReg_writeReg .psw r v).trans (if_neg h)
@[simp] theorem State.readReg_setSp (v : Byte) (h : r ≠ .sp) : (s.setSp v).readReg r = s.readReg r :=
  (s.readReg_writeReg .sp r v).trans (if_neg h)

@[simp] theorem State.readReg_putCy (x : Bool) (h : r ≠ .psw) : (s.putCy x).readReg r = s.readReg r :=
  State.readReg_setPsw _ h
@[simp] theorem State.readReg_putAc (x : Bool) (h : r ≠ .psw) : (s.putAc x).readReg r = s.readReg r :=
  State.readReg_setPsw _ h
@[simp] theorem State.readReg_putOv (x : Bool) (h : r ≠ .psw) : (s.putOv x).readReg r = s.readReg r :=
  State.readReg_setPsw _ h

/-- MemWrite leaves a register alone that is not mapped at the address (R34). -/
theorem State.readReg_memWrite_of_ne {a : DataAddr} (v : Byte) (h : s.sfrAt a ≠ some r) :
    (s.memWrite a v).readReg r = s.readReg r :=
  (s.readReg_memWrite a v r).trans (if_neg h)

/-! The registers beside the ones an operation of more than one write names. -/

theorem State.readReg_putAlu (x : AluResult) (h : r ∉ [Reg.acc, .psw]) : (s.putAlu x).readReg r = s.readReg r := by
  obtain ⟨hacc, hpsw⟩ : r ≠ .acc ∧ r ≠ .psw := by simpa using h
  simp [State.putAlu, hacc, hpsw]

theorem State.readReg_setAcc_putCy (v : Byte) (x : Bool) (h : r ∉ [Reg.acc, .psw]) :
    ((s.setAcc v).putCy x).readReg r = s.readReg r := by
  obtain ⟨hacc, hpsw⟩ : r ≠ .acc ∧ r ≠ .psw := by simpa using h
  simp [hacc, hpsw]

theorem State.readReg_multiply (h : r ∉ [Reg.acc, .b, .c, .psw]) : s.multiply.readReg r = s.readReg r := by
  obtain ⟨hacc, hb, hc, hpsw⟩ : r ≠ .acc ∧ r ≠ .b ∧ r ≠ .c ∧ r ≠ .psw := by simpa using h
  simp [State.multiply, hacc, hb, hc, hpsw]

/-- `div` names the same registers with a zero divisor and without (R80, R81). -/
theorem State.readReg_divide (h : r ∉ [Reg.acc, .b, .c, .psw]) : s.divide.readReg r = s.readReg r := by
  obtain ⟨hacc, hb, hc, hpsw⟩ : r ≠ .acc ∧ r ≠ .b ∧ r ≠ .c ∧ r ≠ .psw := by simpa using h
  unfold State.divide
  split <;> simp [State.putDiv, hacc, hb, hc, hpsw]

theorem State.readReg_exchangeLoc {l : Loc} (hacc : r ≠ .acc) (hl : s.sfrAt (s.locAddr l) ≠ some r) :
    (s.exchangeLoc l).readReg r = s.readReg r :=
  (State.readReg_setAcc _ hacc).trans (State.readReg_memWrite_of_ne _ hl)

/-- `push` stores at the incremented `sp`; the overlay is that of the state before. -/
theorem State.readReg_pushFrom (a : DataAddr) (hsp : r ≠ .sp) (hst : s.sfrAt (stackAddr (s.sp + 1)) ≠ some r) :
    (s.pushFrom a).readReg r = s.readReg r :=
  (State.readReg_memWrite_of_ne (s := s.setSp (s.sp + 1)) _ hst).trans (State.readReg_setSp _ hsp)

theorem State.readReg_popTo {a : DataAddr} (hsp : r ≠ .sp) (ha : s.sfrAt a ≠ some r) :
    (s.popTo a).readReg r = s.readReg r :=
  (State.readReg_setSp _ hsp).trans (State.readReg_memWrite_of_ne _ ha)

/-- Over all instructions: a register that the mnemonic's row does not name and that is not mapped at the store address
keeps its value (R11, R34). -/
theorem exec_readReg_of_not_written {i : Instr} {t : State} (h : exec i s = .next t) (hr : r ∉ tabledWrites i.mnemonic)
    (hs : ∀ a, storeAddr s i = some a → s.sfrAt a ≠ some r) : t.readReg r = s.readReg r := by
  cases i with
  | addImm | addDir | addInd | addcImm | addcDir | addcInd | subImm | subDir | subInd | subcImm | subcDir | subcInd =>
    cases h
    exact (State.readReg_advance ..).trans (State.readReg_putAlu _ hr)
  | rolc | rorc =>
    cases h
    exact (State.readReg_advance ..).trans (State.readReg_setAcc_putCy _ _ hr)
  | mul =>
    cases h
    exact (State.readReg_advance ..).trans (State.readReg_multiply hr)
  | div =>
    cases h
    exact (State.readReg_advance ..).trans (State.readReg_divide hr)
  | andImm | andDir | andInd | orImm | orDir | orInd | xorImm | xorDir | xorInd | rol | ror | ldDir | ldInd | ldc =>
    cases h
    exact (State.readReg_advance ..).trans (State.readReg_setAcc _ (List.ne_of_not_mem_cons hr))
  | incDir | incInd | decDir | decInd | stDir | stInd | movDir | movInd =>
    cases h
    exact (State.readReg_advance ..).trans (State.readReg_memWrite_of_ne _ (hs _ rfl))
  | xchDir | xchInd =>
    cases h
    exact (State.readReg_advance ..).trans (State.readReg_exchangeLoc (List.ne_of_not_mem_cons hr) (hs _ rfl))
  | pushDir a =>
    simp only [exec, execPushDir] at h
    split at h <;> cases h
    exact (State.readReg_advance ..).trans (State.readReg_pushFrom a (List.ne_of_not_mem_cons hr) (hs _ rfl))
  | popDir a =>
    simp only [exec, execPopDir] at h
    split at h <;> cases h
    exact (State.readReg_advance ..).trans (State.readReg_popTo (List.ne_of_not_mem_cons hr) (hs _ rfl))

end RegisterFrames

/-- `tr` as a number (R13). -/
theorem State.tr_toNat (s : State) : s.tr.toNat = s.trh.toNat * 256 + s.trl.toNat :=
  calc s.tr.toNat = s.trh.toNat <<< 8 ||| s.trl.toNat := BitVec.toNat_append s.trh s.trl
    _ = s.trh.toNat <<< 8 + s.trl.toNat := (Nat.shiftLeft_add_eq_or_of_lt s.trl.isLt _).symm
    _ = s.trh.toNat * 256 + s.trl.toNat := by rw [Nat.shiftLeft_eq]

/-- No mnemonic's row in R11's table names `trh` or `trl`. -/
theorem tr_not_mem_tabledWrites (m : Mnemonic) : Reg.trh ∉ tabledWrites m ∧ Reg.trl ∉ tabledWrites m := by
  cases m <;> decide

/-- Settles O40: the frame over all instructions, at the two registers that no mnemonic's row names. -/
theorem trIsWrittenOnlyThroughAnAlias : Obligations.TrIsWrittenOnlyThroughAnAlias := by
  refine ⟨State.tr_toNat, fun i s t h => ?_⟩
  obtain ⟨htrh, htrl⟩ := tr_not_mem_tabledWrites i.mnemonic
  exact ⟨exec_readReg_of_not_written h htrh, exec_readReg_of_not_written h htrl⟩

end Sys2Proof.Machine

/-! The rotates (R94 to R97): the bits of a shifted byte, and what a write of `acc`, alone or with `cy`, leaves unchanged. -/

namespace Sys2Proof.Machine

section RotateRules
variable {s t : State} {v : Byte} {x : Bool} {len : Nat} {j : Fin 8}

/-- The bits of a byte moved to the left (R94, R95). -/
theorem getLsbD_shiftInLow :
    (shiftInLow v x).getLsbD j.val = if j.val = 0 then x else v.getLsbD (j.val - 1) := by
  rw [shiftInLow, BitVec.getLsbD_append]
  by_cases hj : j.val = 0
  · simp [hj]
  · simp [hj, show j.val - 1 < 7 by omega]

/-- The bits of a byte moved to the right (R96, R97). -/
theorem getLsbD_shiftInHigh :
    (shiftInHigh v x).getLsbD j.val = if j.val = 7 then x else v.getLsbD (j.val + 1) := by
  rw [shiftInHigh, BitVec.getLsbD_append]
  by_cases hj : j.val = 7
  · simp [hj]
  · simp [hj, show j.val < 7 by omega, Nat.add_comm]

/-- With the top bit coming in at the bottom, the move to the left is a rotation. -/
theorem getLsbD_shiftInLow_top :
    (shiftInLow v (v.getLsbD 7)).getLsbD j.val = v.getLsbD ((j.val + 7) % 8) := by
  rw [getLsbD_shiftInLow]
  split
  next hj => rw [hj]
  next hj => rw [show (j.val + 7) % 8 = j.val - 1 by omega]

/-- With the bottom bit coming in at the top, the move to the right is a rotation. -/
theorem getLsbD_shiftInHigh_bottom :
    (shiftInHigh v (v.getLsbD 0)).getLsbD j.val = v.getLsbD ((j.val + 1) % 8) := by
  rw [getLsbD_shiftInHigh]
  split
  next hj => rw [hj]
  next hj => rw [Nat.mod_eq_of_lt (by omega)]

/-- A form that writes `acc` and nothing else. -/
theorem registerFrame_setAcc : RegisterFrame [.acc] len s ((s.setAcc v).advance len) :=
  ⟨fun _ hr => (State.readReg_advance ..).trans (State.readReg_setAcc v (List.ne_of_not_mem_cons hr)),
    fun _ => rfl, rfl, rfl, rfl, rfl⟩

/-- A form that writes `acc` and `cy` and nothing else. -/
theorem registerFrame_setAcc_putCy : RegisterFrame [.acc, .psw] len s (((s.setAcc v).putCy x).advance len) :=
  ⟨fun _ hr => (State.readReg_advance ..).trans (State.readReg_setAcc_putCy v x hr), fun _ => rfl, rfl, rfl, rfl, rfl⟩

/-- Writing `cy` changes no other bit of `psw`. -/
theorem pswBitsKeptBut_putCy : PswBitsKeptBut [s.params.pswLayout.posCy] s (s.putCy x) :=
  fun j hj => (getLsbD_putBit s.psw _ j x).trans (if_neg (List.ne_of_not_mem_cons hj))

/-- What `rolc` and `rorc` do beside the bits of `acc`: the bit that leaves goes to `cy`, everything else is kept. -/
theorem setAcc_putCy_effect (h : s.params.pswLayout.wellFormed = true) (ht : t = ((s.setAcc v).putCy x).advance len) :
    t.cy = x ∧ t.ac = s.ac ∧ t.ov = s.ov ∧
    RegisterFrame [.acc, .psw] len s t ∧ PswBitsKeptBut [s.params.pswLayout.posCy] s t := by
  subst ht
  exact ⟨State.putCy_cy (s.setAcc v) x, State.putCy_ac (s.setAcc v) x h, State.putCy_ov (s.setAcc v) x h,
    registerFrame_setAcc_putCy, pswBitsKeptBut_putCy⟩

end RotateRules

/-- Settles O23: a move to the left with the top bit coming in. -/
theorem rolCompletes : Obligations.RolCompletes :=
  ⟨⟨rfl, rfl, rfl⟩, fun _ => ⟨_, rfl, fun _ => getLsbD_shiftInLow_top, registerFrame_setAcc⟩⟩

/-- Settles O24: a move to the right with the bottom bit coming in. -/
theorem rorCompletes : Obligations.RorCompletes :=
  ⟨⟨rfl, rfl, rfl⟩, fun _ => ⟨_, rfl, fun _ => getLsbD_shiftInHigh_bottom, registerFrame_setAcc⟩⟩

/-- Settles O25: a move to the left with `cy` coming in and the top bit going to `cy`. -/
theorem rolcCompletes : Obligations.RolcCompletes :=
  ⟨⟨rfl, rfl, rfl⟩, fun _ h => ⟨_, rfl, fun _ => getLsbD_shiftInLow, setAcc_putCy_effect h rfl⟩⟩

/-- Settles O26: a move to the right with `cy` coming in and the bottom bit going to `cy`. -/
theorem rorcCompletes : Obligations.RorcCompletes :=
  ⟨⟨rfl, rfl, rfl⟩, fun _ h => ⟨_, rfl, fun _ => getLsbD_shiftInHigh, setAcc_putCy_effect h rfl⟩⟩

end Sys2Proof.Machine

/-! The loads (R111): the bytes of their two operand fields, and what a load of `acc` keeps. -/

namespace Sys2Proof.Machine

section LoadRules
variable {s : State} {i : Instr} {v : Byte} {len w k : Nat}

/-- A field put over the zero bits of an opcode byte stands beside the opcode bits (R51). -/
theorem append_zero_or_setWidth (p : BitVec w) (x : BitVec k) : (p ++ 0#k) ||| x.setWidth (w + k) = p ++ x := by
  ext j hj
  by_cases hjk : j < k
  · simp [BitVec.getElem_append, hjk]
  · simp [BitVec.getElem_append, hjk, BitVec.getLsbD_of_ge x j (Nat.le_of_not_lt hjk)]

/-- The bytes of a `d9` form, field by field: `d8` ends byte 0, `d7` to `d0` are byte 1 (R51). -/
theorem bytesDir_append (p : BitVec 7) (a : DataAddr) :
    bytesDir (p ++ 0#1) a = [p ++ a.extractLsb' 8 1, a.extractLsb' 0 8] := by
  rw [bytesDir, append_zero_or_setWidth, BitVec.setWidth_eq_extractLsb' (by decide)]

/-- The byte of an `@Ri` form: the register number ends it (R51). -/
theorem bytesInd_append (p : BitVec 6) (r : IndReg) : bytesInd (p ++ 0#2) r = [p ++ r] :=
  congrArg (fun b => [b]) (append_zero_or_setWidth p r)

/-- What a form does that loads a byte into `acc`: no flag changes, and nothing else but `pc`. -/
theorem completes_of_setAcc (h : exec i s = .next ((s.setAcc v).advance len)) :
    Completes i s fun t => t.acc = v ∧ FlagsKept s t ∧ RegisterFrame [.acc] len s t :=
  ⟨_, h, rfl, ⟨rfl, rfl, rfl⟩, registerFrame_setAcc⟩

end LoadRules

/-- Settles O28: the encoder's rows field by field, and a load of `acc` from the operand's address. -/
theorem ldCompletes : Obligations.LdCompletes :=
  ⟨fun a => ⟨bytesDir_append 0b0000001#7 a, rfl, rfl⟩, fun r => ⟨bytesInd_append 0b000001#6 r, rfl, rfl⟩,
    fun _ => ⟨fun _ => completes_of_setAcc rfl, fun _ => completes_of_setAcc rfl⟩⟩

end Sys2Proof.Machine

/-! The opcode table (R51 to R56): no two rows overlap, so a first byte's fixed bits decide its row; what each format's row builds
encodes to the bytes it was built from, and what is encoded decodes to itself. -/

namespace Sys2Proof.Machine

section OpcodeTable
variable {b0 b1 b2 op : Byte} {x y r : OpRow} {a : DataAddr} {tail rest : List Byte}

/-- Two rows that differ at a bit both of them fix have no first byte in common. -/
theorem disjoint_of_fixed_bits_ne (h : x.pattern &&& y.mask ≠ y.pattern &&& x.mask) :
    ¬ (b0 &&& x.mask = x.pattern ∧ b0 &&& y.mask = y.pattern) := by
  rintro ⟨hx, hy⟩
  exact h (by rw [← hx, ← hy, BitVec.and_assoc, BitVec.and_assoc, BitVec.and_comm x.mask])

/-- Every two rows of the table differ at a bit both of them fix. -/
theorem opcodeTable_fixed_bits_ne : opcodeTable.Pairwise fun x y => x.pattern &&& y.mask ≠ y.pattern &&& x.mask := by
  decide

/-- Settles O3: two rows differ at a bit both of them fix. -/
theorem noFirstByteHasTwoRows : Obligations.NoFirstByteHasTwoRows :=
  opcodeTable_fixed_bits_ne.imp fun h _ => disjoint_of_fixed_bits_ne h

/-- The row of a first byte is the one row of the table whose fixed bits the byte has. -/
theorem lookupRow_eq_some_iff : lookupRow b0 = some r ↔ r ∈ opcodeTable ∧ b0 &&& r.mask = r.pattern := by
  have fixed_of_lookup {r : OpRow} (h : lookupRow b0 = some r) : b0 &&& r.mask = r.pattern := by
    simpa using List.find?_some h
  refine ⟨fun h => ⟨lookupRow_mem h, fixed_of_lookup h⟩, fun ⟨hr, hb⟩ => ?_⟩
  obtain ⟨r', h'⟩ : ∃ r', lookupRow b0 = some r' :=
    Option.isSome_iff_exists.mp (List.find?_isSome.mpr ⟨r, hr, by simpa using hb⟩)
  by_contra hne
  have : Std.Symm fun x y : OpRow => x.pattern &&& y.mask ≠ y.pattern &&& x.mask := ⟨fun _ _ h => h.symm⟩
  have hdisjoint := opcodeTable_fixed_bits_ne.forall (lookupRow_mem h') hr fun e => hne (e ▸ h')
  exact disjoint_of_fixed_bits_ne hdisjoint ⟨fixed_of_lookup h', hb⟩

/-- A byte with the same fixed bits has the same row. -/
theorem lookupRow_of_fixed_bits_eq (h : lookupRow op = some r) (hb : b0 &&& r.mask = op &&& r.mask) :
    lookupRow b0 = some r := by
  obtain ⟨hr, hop⟩ := lookupRow_eq_some_iff.mp h
  exact lookupRow_eq_some_iff.mpr ⟨hr, hb.trans hop⟩

/-- `decode` on a first byte with a row and enough bytes after it. -/
theorem decode_of_lookupRow (h : lookupRow b0 = some r) (hlen : r.length ≤ tail.length + 1) :
    decode (b0 :: tail) = .ok (r.build b0 (tail.getD 0 0) (tail.getD 1 0), tail.drop (r.length - 1)) := by
  simp [decode, h, Nat.not_lt.mpr hlen]

/-! A field of `w` low bits in a first byte (R51, R52), under the mask of the bits above it. -/

/-- The mask fixes the bits from `w` up. -/
def FixesAbove (w : Nat) (mask : Byte) : Prop := ∀ j : Fin 8, mask.getLsbD j.val = decide (w ≤ j.val)

variable {w : Nat} {mask : Byte} {f : BitVec w}

/-- The fixed bits with the field put back are the byte. -/
theorem FixesAbove.or_field (h : FixesAbove w mask) : (b0 &&& mask) ||| (b0.extractLsb' 0 w).setWidth 8 = b0 := by
  ext j hj
  have hm : mask[j] = decide (w ≤ j) := h ⟨j, hj⟩
  by_cases hw : w ≤ j
  · simp [hm, hw]
  · simp [hm, hw, hj, Nat.lt_of_not_le hw]

/-- A field put in does not touch the fixed bits. -/
theorem FixesAbove.and_mask (h : FixesAbove w mask) : (op ||| f.setWidth 8) &&& mask = op &&& mask := by
  ext j hj
  have hm : mask[j] = decide (w ≤ j) := h ⟨j, hj⟩
  by_cases hw : w ≤ j <;> simp [hm, hw]

/-- A field put over zero bits is read back. -/
theorem FixesAbove.extract_field (h : FixesAbove w mask) (hw : w ≤ 8) (hop : op &&& mask = op) :
    (op ||| f.setWidth 8).extractLsb' 0 w = f := by
  ext j hj
  have hj8 : j < 8 := Nat.lt_of_lt_of_le hj hw
  have hm : mask[j] = false := (h ⟨j, hj8⟩).trans (by simpa using hj)
  have hz : op[j] = false := by rw [← hop, BitVec.getElem_and, hm, Bool.and_false]
  simp [hz, hj, hj8]

theorem fixesAbove_d8 : FixesAbove 1 0xFE := by unfold FixesAbove; decide
theorem fixesAbove_ri : FixesAbove 2 0xFC := by unfold FixesAbove; decide

/-- The address of a `d9` form, from the byte its top bit is put into and the byte of its other bits. -/
theorem fieldD9_or (hop : op &&& 0xFE = op) :
    fieldD9 (op ||| (a.extractLsb' 8 1).setWidth 8) (a.setWidth 8) = a := by
  rw [fieldD9, fixesAbove_d8.extract_field (by decide) hop, BitVec.setWidth_eq_extractLsb' (by decide),
    BitVec.extractLsb'_append_extractLsb'_eq_extractLsb' (start₁ := 0) (len₁ := 8) rfl]
  exact BitVec.extractLsb'_eq_self

/-- The register number of an `@Ri` form, from the byte it is put into. -/
theorem fieldRi_or (hop : op &&& 0xFC = op) (n : IndReg) : fieldRi (op ||| n.setWidth 8) = n :=
  fixesAbove_ri.extract_field (by decide) hop

/-! What is encoded is read back, format by format. -/

section ReadBack
variable {mkDir : DataAddr → Instr} {mkInd : IndReg → Instr} {mkDirImm : Byte → DataAddr → Instr}
  {mkIndImm : Byte → IndReg → Instr} {n : IndReg} {v : Byte}

theorem decode_rowDir (h : lookupRow op = some (rowDir op mkDir)) :
    decode (bytesDir op a ++ rest) = .ok (mkDir a, rest) := by
  have hop : op &&& 0xFE = op := (lookupRow_eq_some_iff.mp h).2
  refine (decode_of_lookupRow (lookupRow_of_fixed_bits_eq h fixesAbove_d8.and_mask) (by simp [rowDir])).trans ?_
  simp [rowDir, fieldD9_or hop]

theorem decode_rowInd (h : lookupRow op = some (rowInd op mkInd)) :
    decode (bytesInd op n ++ rest) = .ok (mkInd n, rest) := by
  have hop : op &&& 0xFC = op := (lookupRow_eq_some_iff.mp h).2
  refine (decode_of_lookupRow (lookupRow_of_fixed_bits_eq h fixesAbove_ri.and_mask) (by simp [rowInd])).trans ?_
  simp [rowInd, fieldRi_or hop]

theorem decode_rowDirImm (h : lookupRow op = some (rowDirImm op mkDirImm)) :
    decode (bytesDir op a ++ [v] ++ rest) = .ok (mkDirImm v a, rest) := by
  have hop : op &&& 0xFE = op := (lookupRow_eq_some_iff.mp h).2
  refine (decode_of_lookupRow (lookupRow_of_fixed_bits_eq h fixesAbove_d8.and_mask) (by simp [rowDirImm])).trans ?_
  simp [rowDirImm, fieldD9_or hop]

theorem decode_rowIndImm (h : lookupRow op = some (rowIndImm op mkIndImm)) :
    decode (bytesInd op n ++ [v] ++ rest) = .ok (mkIndImm v n, rest) := by
  have hop : op &&& 0xFC = op := (lookupRow_eq_some_iff.mp h).2
  refine (decode_of_lookupRow (lookupRow_of_fixed_bits_eq h fixesAbove_ri.and_mask) (by simp [rowIndImm])).trans ?_
  simp [rowIndImm, fieldRi_or hop]

end ReadBack

/-- Settles O1: the format of each instruction, and its opcode's row in the table. -/
theorem decodeReadsBackEveryEncoding : Obligations.DecodeReadsBackEveryEncoding := by
  intro i rest
  cases i with
  | addImm | addcImm | subImm | subcImm | andImm | orImm | xorImm | mul | div | rol | rolc | ror | rorc | ldc => rfl
  | addDir | addcDir | subDir | subcDir | incDir | decDir | andDir | orDir | xorDir | ldDir | stDir | pushDir | popDir
  | xchDir => exact decode_rowDir rfl
  | addInd | addcInd | subInd | subcInd | incInd | decInd | andInd | orInd | xorInd | ldInd | stInd | xchInd =>
    exact decode_rowInd rfl
  | movDir => exact decode_rowDirImm rfl
  | movInd => exact decode_rowIndImm rfl

/-! What a row builds encodes to the bytes it was built from. -/

/-- The bytes of a `d9` form, from its fields. -/
theorem bytesDir_fieldD9 (hb : b0 &&& 0xFE = op) : bytesDir op (fieldD9 b0 b1) = [b0, b1] := by
  have htop : (fieldD9 b0 b1).extractLsb' 8 1 = b0.extractLsb' 0 1 := BitVec.extractLsb'_append_eq_left
  have hlow : (fieldD9 b0 b1).setWidth 8 = b1 := BitVec.setWidth_append_eq_right
  rw [bytesDir, htop, hlow, ← hb, fixesAbove_d8.or_field]

/-- The byte of an `@Ri` form, from its field. -/
theorem bytesInd_fieldRi (hb : b0 &&& 0xFC = op) : bytesInd op (fieldRi b0) = [b0] := by
  rw [bytesInd, fieldRi, ← hb, fixesAbove_ri.or_field]

/-- A mask of ones fixes the whole byte. -/
theorem and_ones : b0 &&& 0xFF#8 = b0 := BitVec.and_allOnes

/-- Every row of the table is the encoder's: the bytes of a form are the encoding of what its row builds from them. -/
theorem encode_build : ∀ r ∈ opcodeTable, b0 &&& r.mask = r.pattern →
    encode (r.build b0 b1 b2) = [b0, b1, b2].take r.length := by
  simp +contextual [opcodeTable, arithmeticRows, bitwiseRows, storageRows, rowInh, rowImm, rowDir, rowInd, rowDirImm, rowIndImm,
    encode, and_ones, bytesDir_fieldD9, bytesInd_fieldRi]

/-- The bytes a row reads after the first, and the bytes it leaves, are all that follow. -/
theorem take_getD_append_drop {n : Nat} (h2 : n ≤ 2) (hlen : n ≤ tail.length) :
    [tail.getD 0 0, tail.getD 1 0].take n ++ tail.drop n = tail := by
  match tail, n with
  | _, 0 | _ :: _, 1 | _ :: _ :: _, 2 => rfl

/-- Settles O2: the row of the first byte builds the instruction from bytes that it encodes to. -/
theorem decodedBytesAreTheEncoding : Obligations.DecodedBytesAreTheEncoding := by
  intro bytes rest i h
  obtain ⟨b0, tail, r, rfl, hr, hlen, rfl, rfl⟩ := decode_ok h
  obtain ⟨hmem, hb⟩ := lookupRow_eq_some_iff.mp hr
  obtain ⟨-, h1, h3⟩ := build_length hmem 0 0 0
  obtain ⟨n, hn⟩ : ∃ n, r.length = n + 1 := ⟨r.length - 1, by omega⟩
  rw [encode_build r hmem hb, hn]
  exact congrArg (b0 :: ·) (take_getD_append_drop (by omega) (by omega))

/-! The first bytes without a row (R56). -/

/-- The decoder refuses a first byte by name exactly where the table has no row for it. -/
theorem decode_undocumented_iff : decode (b0 :: tail) = .error (.undocumentedOpcode b0) ↔ lookupRow b0 = none := by
  cases h : lookupRow b0 with
  | none => simp [decode, h]
  | some r =>
    by_cases hlen : tail.length + 1 < r.length <;> simp [decode, h, hlen]

/-- The table has a row for each of the 96 first bytes that R56 does not list, and for no other. -/
theorem lookupRow_eq_none_iff : ∀ b0 : Byte, lookupRow b0 = none ↔ undocumentedByte b0 = true := by
  have h : ∀ b0 : Byte, (lookupRow b0).isNone = undocumentedByte b0 := by decide
  exact fun b0 => by rw [← h, Option.isNone_iff_eq_none]

/-- Settles O4: the rows cover the first bytes that R56 does not list. -/
theorem decoderRefusesTheListedFirstBytes : Obligations.DecoderRefusesTheListedFirstBytes :=
  fun b0 _ => decode_undocumented_iff.trans (lookupRow_eq_none_iff b0)

/-! The operand fields (R52). -/

theorem fieldD9_toNat : (fieldD9 b0 b1).toNat = b0.toNat % 2 * 256 + b1.toNat :=
  calc (fieldD9 b0 b1).toNat = (b0.extractLsb' 0 1).toNat <<< 8 ||| b1.toNat := BitVec.toNat_append ..
    _ = (b0.extractLsb' 0 1).toNat <<< 8 + b1.toNat := (Nat.shiftLeft_add_eq_or_of_lt b1.isLt _).symm
    _ = b0.toNat % 2 * 256 + b1.toNat := by simp [Nat.shiftLeft_eq]

theorem fieldRi_toNat : (fieldRi b0).toNat = b0.toNat % 4 := by simp [fieldRi]

/-- Every row puts its fields where R52 has them. -/
theorem opcodeTable_fields : ∀ r ∈ opcodeTable,
    (∀ a, dataOperand (r.build b0 b1 b2) = some a → a = fieldD9 b0 b1) ∧
    (∀ n, indirectOperand (r.build b0 b1 b2) = some n → n = fieldRi b0) ∧
    (∀ v, immediateOperand (r.build b0 b1 b2) = some v → ([b0, b1, b2].take r.length).getLast? = some v) := by
  simp [opcodeTable, arithmeticRows, bitwiseRows, storageRows, rowInh, rowImm, rowDir, rowInd, rowDirImm, rowIndImm, dataOperand,
    indirectOperand, immediateOperand, eq_comm]

/-- Settles O5: the fields of the row that builds the instruction. -/
theorem fieldsAreAssembledFromTheBytes : Obligations.FieldsAreAssembledFromTheBytes := by
  intro b0 b1 b2 i rest h
  obtain ⟨_, _, r, hl, hr, -, rfl, -⟩ := decode_ok h
  obtain ⟨rfl, rfl⟩ := List.cons.inj hl
  have hmem := lookupRow_mem hr
  obtain ⟨hd, hi, hv⟩ := opcodeTable_fields (b0 := b0) (b1 := b1) (b2 := b2) r hmem
  refine ⟨fun a ha => ?_, fun n hn => ?_, fun v hv' => ?_⟩
  · rw [hd a ha, fieldD9_toNat]
  · rw [hi n hn, fieldRi_toNat]
  · rw [(build_length hmem ..).1]
    exact hv v hv'

end OpcodeTable

/-- Settles O6: the decoder evaluated on eight words. -/
theorem sampleWordsDecode : Obligations.SampleWordsDecode := ⟨rfl, rfl, rfl, rfl, rfl, rfl, rfl, rfl⟩

end Sys2Proof.Machine

/-! A step, said once: what is fetched in terms of the three bytes at `pc`, what an instruction's meaning keeps whatever it is, and
every outcome of a step with its circumstances (R25, R172, R173). -/

namespace Sys2Proof.Machine

section Fetching
variable {s : State} {i : Instr} {l rest : List Byte}

/-- More bytes at the end stay unread. -/
theorem decode_append (h : decode l = .ok (i, rest)) (more : List Byte) : decode (l ++ more) = .ok (i, rest ++ more) := by
  rw [← decodedBytesAreTheEncoding l rest i h, List.append_assoc]
  exact decodeReadsBackEveryEncoding i (rest ++ more)

/-- Fetching more bytes fetches the same ones first. -/
theorem fetchBytes_eq_append {m n : Nat} (h : m ≤ n) (a : CodeAddr) : ∃ more, s.fetchBytes a n = s.fetchBytes a m ++ more := by
  induction m generalizing n a with
  | zero => exact ⟨_, rfl⟩
  | succ m ih =>
    obtain ⟨n, rfl⟩ : ∃ k, n = k + 1 := ⟨n - 1, by omega⟩
    obtain ⟨more, hmore⟩ := ih (Nat.le_of_succ_le_succ h) (a + 1)
    exact ⟨more, congrArg (s.fetch a :: ·) hmore⟩

/-- An undocumented first byte is refused by name (R56). -/
theorem fetchInstr_of_undocumented (h : undocumentedByte (s.fetch s.pc) = true) :
    s.fetchInstr = .error (.undocumentedOpcode (s.fetch s.pc)) := by
  simp [State.fetchInstr, (lookupRow_eq_none_iff _).mpr h]

/-- The three bytes at `pc` decode, unless the first is undocumented. -/
theorem exists_decode_of_documented (h : undocumentedByte (s.fetch s.pc) = false) :
    ∃ i rest, decode (s.fetchBytes s.pc 3) = .ok (i, rest) := by
  cases hr : lookupRow (s.fetch s.pc) with
  | none => rw [(lookupRow_eq_none_iff _).mp hr] at h; cases h
  | some r => exact ⟨_, _, decode_of_lookupRow hr (build_length (lookupRow_mem hr) 0 0 0).2.2⟩

/-- Where the three bytes at `pc` decode, what is fetched is that instruction, or refused at the end of the ROM space (R18). -/
theorem fetchInstr_of_decode (h : decode (s.fetchBytes s.pc 3) = .ok (i, rest)) :
    s.fetchInstr = if 0x10000 ≤ s.pc.toNat + i.length then .error .pcWrap else .ok i := by
  obtain ⟨b0, tail, r, hl, hr, -, hi, -⟩ := decode_ok h
  obtain ⟨rfl, rfl⟩ := List.cons.inj hl
  obtain ⟨hlen, -, h3⟩ := build_length (lookupRow_mem hr) (s.fetch s.pc)
    ((s.fetchBytes (s.pc + 1) 2).getD 0 0) ((s.fetchBytes (s.pc + 1) 2).getD 1 0)
  rw [← hi] at hlen
  rcases s.fetchInstr_cases with ⟨hn, -⟩ | ⟨r', hr', hw, hf⟩ | ⟨r', hr', hw, j, hj, -, hf⟩
  · rw [hr] at hn; cases hn
  · cases hr.symm.trans hr'
    rw [hf, if_pos (hlen ▸ hw)]
  · cases hr.symm.trans hr'
    obtain ⟨more, hmore⟩ := fetchBytes_eq_append (s := s) h3 s.pc
    have hij := decode_append hj more
    rw [← hmore, h] at hij
    cases hij
    rw [hf, if_neg (by omega)]

end Fetching

section Meaning
variable {s u t : State}

/-- What the meaning of an instruction keeps before `pc` is advanced: `pc`, the parameters of the run, the mark of a refused run,
and the canonical form of the data space. -/
def BodyKeeps (s u : State) : Prop := u.pc = s.pc ∧ LaunchKept s u ∧ (Memory.wf 512 s.data → Memory.wf 512 u.data)

theorem bodyKeeps_putAlu (r : AluResult) : BodyKeeps s (s.putAlu r) := ⟨rfl, ⟨rfl, rfl, rfl⟩, id⟩
theorem bodyKeeps_setAcc (v : Byte) : BodyKeeps s (s.setAcc v) := ⟨rfl, ⟨rfl, rfl, rfl⟩, id⟩
theorem bodyKeeps_setSp (v : Byte) : BodyKeeps s (s.setSp v) := ⟨rfl, ⟨rfl, rfl, rfl⟩, id⟩
theorem bodyKeeps_setAcc_putCy (v : Byte) (x : Bool) : BodyKeeps s ((s.setAcc v).putCy x) := ⟨rfl, ⟨rfl, rfl, rfl⟩, id⟩
theorem bodyKeeps_multiply : BodyKeeps s s.multiply := ⟨rfl, ⟨rfl, rfl, rfl⟩, id⟩
theorem bodyKeeps_divide : BodyKeeps s s.divide := by
  unfold State.divide
  split <;> exact ⟨rfl, ⟨rfl, rfl, rfl⟩, id⟩

theorem bodyKeeps_memWrite (a : DataAddr) (v : Byte) : BodyKeeps s (s.memWrite a v) :=
  ⟨s.memWrite_pc a v, ⟨s.memWrite_rom a v, s.memWrite_params a v, s.memWrite_refused a v⟩, s.wf_memWrite a v⟩

theorem BodyKeeps.trans (h : BodyKeeps s u) (h' : BodyKeeps u t) : BodyKeeps s t := by
  obtain ⟨hpc, ⟨hrom, hparams, hrefused⟩, hwf⟩ := h
  obtain ⟨hpc', ⟨hrom', hparams', hrefused'⟩, hwf'⟩ := h'
  exact ⟨hpc'.trans hpc, ⟨hrom'.trans hrom, hparams'.trans hparams, hrefused'.trans hrefused⟩, hwf' ∘ hwf⟩

/-- What an instruction can answer: a next state, `pc` advanced by the instruction's length, or the refusal of a push or pop of
`sp`. -/
inductive ExecCase (s : State) : Instr → Host.Outcome State Fault Refusal → Prop
  | next {i : Instr} (u : State) (hu : BodyKeeps s u) : ExecCase s i (.next (u.advance i.length))
  | push {a : DataAddr} (ha : s.sfrAt a = some .sp) : ExecCase s (.pushDir a) (.refused .pushPopSp)
  | pop {a : DataAddr} (ha : s.sfrAt a = some .sp) : ExecCase s (.popDir a) (.refused .pushPopSp)

theorem exec_cases (i : Instr) (s : State) : ExecCase s i (exec i s) := by
  cases i with
  | addImm | addDir | addInd | addcImm | addcDir | addcInd | subImm | subDir | subInd | subcImm | subcDir | subcInd =>
    exact .next _ (bodyKeeps_putAlu _)
  | rolc | rorc => exact .next _ (bodyKeeps_setAcc_putCy _ _)
  | mul => exact .next _ bodyKeeps_multiply
  | div => exact .next _ bodyKeeps_divide
  | andImm | andDir | andInd | orImm | orDir | orInd | xorImm | xorDir | xorInd | rol | ror | ldDir | ldInd | ldc =>
    exact .next _ (bodyKeeps_setAcc _)
  | incDir | incInd | decDir | decInd | stDir | stInd | movDir | movInd => exact .next _ (bodyKeeps_memWrite _ _)
  | xchDir | xchInd => exact .next _ ((bodyKeeps_memWrite _ _).trans (bodyKeeps_setAcc _))
  | pushDir a =>
    simp only [exec, execPushDir]
    split
    next ha => exact .push ha
    next => exact .next _ ((bodyKeeps_setSp _).trans (bodyKeeps_memWrite _ _))
  | popDir a =>
    simp only [exec, execPopDir]
    split
    next ha => exact .pop ha
    next => exact .next _ ((bodyKeeps_memWrite _ _).trans (bodyKeeps_setSp _))

end Meaning

section Stepping
variable {s t : State} {i : Instr} {rest : List Byte} {r : Refusal}

theorem step_of_refused (h : s.refused = true) : step s = .refused .alreadyRefused := by simp [step, h]

theorem step_of_halt (h : s.refused = false) (hh : s.params.haltPc = some s.pc) : step s = .fault .runEnded := by
  simp [step, h, hh]

theorem step_of_fetchInstr_ok (h : Ready s) (hf : s.fetchInstr = .ok i) : step s = exec i s := by
  simp [step, h.1, h.2, hf]

theorem step_of_fetchInstr_error (h : Ready s) (hf : s.fetchInstr = .error r) : step s = .refused r := by
  simp [step, h.1, h.2, hf]

/-- Settles O41: the three bytes at `pc` decide what is fetched. -/
theorem stepRunsTheDecodedInstruction : Obligations.StepRunsTheDecodedInstruction :=
  fun _ _ _ h hd _ hfit => step_of_fetchInstr_ok h ((fetchInstr_of_decode hd).trans (if_neg (Nat.not_le.mpr hfit)))

/-- Settles O43: the three bytes at `pc` decide what is fetched. -/
theorem pcWrapRefused : Obligations.PcWrapRefused :=
  fun _ _ _ h hd hw => step_of_fetchInstr_error h ((fetchInstr_of_decode hd).trans (if_pos hw))

/-- Every outcome of a step, with its circumstances. -/
inductive StepCase (s : State) : Host.Outcome State Fault Refusal → Prop
  | alreadyRefused (h : s.refused = true) : StepCase s (.refused .alreadyRefused)
  | runEnded (h : s.refused = false) (hh : s.params.haltPc = some s.pc) : StepCase s (.fault .runEnded)
  | undocumented (h : Ready s) (hb : undocumentedByte (s.fetch s.pc) = true) :
    StepCase s (.refused (.undocumentedOpcode (s.fetch s.pc)))
  | pcWrap {i : Instr} {rest : List Byte} (h : Ready s) (hd : decode (s.fetchBytes s.pc 3) = .ok (i, rest))
    (hw : 0x10000 ≤ s.pc.toNat + i.length) : StepCase s (.refused .pcWrap)
  | exec {i : Instr} {rest : List Byte} {o : Host.Outcome State Fault Refusal} (h : Ready s)
    (hd : decode (s.fetchBytes s.pc 3) = .ok (i, rest)) (hw : s.pc.toNat + i.length < 0x10000) (ho : ExecCase s i o) :
    StepCase s o

theorem step_cases (s : State) : StepCase s (step s) := by
  by_cases hr : s.refused = true
  · exact step_of_refused hr ▸ .alreadyRefused hr
  have hr : s.refused = false := by simpa using hr
  by_cases hh : s.params.haltPc = some s.pc
  · exact step_of_halt hr hh ▸ .runEnded hr hh
  have h : Ready s := ⟨hr, hh⟩
  cases hb : undocumentedByte (s.fetch s.pc) with
  | true => exact step_of_fetchInstr_error h (fetchInstr_of_undocumented hb) ▸ .undocumented h hb
  | false =>
    obtain ⟨i, rest, hd⟩ := exists_decode_of_documented hb
    by_cases hw : 0x10000 ≤ s.pc.toNat + i.length
    · exact pcWrapRefused s i rest h hd hw ▸ .pcWrap h hd hw
    · have hf : s.fetchInstr = .ok i := (fetchInstr_of_decode hd).trans (if_neg hw)
      exact step_of_fetchInstr_ok h hf ▸ .exec h hd (Nat.lt_of_not_le hw) (exec_cases i s)

/-- A step that goes on runs the instruction at `pc`, which ends below the end of the ROM space. -/
theorem step_next_cases (h : step s = .next t) :
    ∃ i rest u, decode (s.fetchBytes s.pc 3) = .ok (i, rest) ∧ s.pc.toNat + i.length < 0x10000 ∧ BodyKeeps s u ∧
      t = u.advance i.length := by
  have hc := step_cases s
  rw [h] at hc
  cases hc with
  | exec _ hd hw ho =>
    cases ho with
    | next u hu => exact ⟨_, _, u, hd, hw, hu, rfl⟩

end Stepping

/-- Settles O42: a first byte decides whether the three bytes at `pc` decode, and no meaning answers that refusal. -/
theorem undocumentedOpcodesRefused : Obligations.UndocumentedOpcodesRefused := by
  refine fun s h => ⟨fun hb => step_of_fetchInstr_error h (fetchInstr_of_undocumented hb), fun hb b0 hs => ?_⟩
  have hc := step_cases s
  rw [hs] at hc
  cases hc with
  | undocumented _ hb' => rw [hb] at hb'; cases hb'
  | exec _ _ _ ho => cases ho

/-- Settles O44: of the outcomes of a step one is a fault. -/
theorem faultsExactlyAtHaltPc : Obligations.FaultsExactlyAtHaltPc := by
  refine fun s f => ⟨fun hs => ?_, fun ⟨hr, hh, hf⟩ => hf ▸ step_of_halt hr hh⟩
  have hc := step_cases s
  rw [hs] at hc
  cases hc with
  | runEnded hr hh => exact ⟨hr, hh, rfl⟩
  | exec _ _ _ ho => cases ho

/-- Settles O45: of the outcomes of a step one is that refusal. -/
theorem refusedRunHasNoStep : Obligations.RefusedRunHasNoStep := by
  refine fun s => ⟨fun hs => ?_, step_of_refused⟩
  have hc := step_cases s
  rw [hs] at hc
  cases hc with
  | alreadyRefused hr => exact hr
  | exec _ _ _ ho => cases ho

/-- Settles O46: the refusals among the outcomes of a step. -/
theorem refusalsAreTheClosedList : Obligations.RefusalsAreTheClosedList := by
  intro s r hs
  have hc := step_cases s
  rw [hs] at hc
  cases hc with
  | alreadyRefused hr => exact .inl ⟨rfl, hr⟩
  | undocumented h hb => exact .inr (.inl ⟨h, rfl, hb⟩)
  | pcWrap h hd hw => exact .inr (.inr (.inl ⟨h, rfl, _, _, hd, hw⟩))
  | exec h hd _ ho =>
    cases ho with
    | push ha => exact .inr (.inr (.inr ⟨h, rfl, _, _, ha, .inl hd⟩))
    | pop ha => exact .inr (.inr (.inr ⟨h, rfl, _, _, ha, .inr hd⟩))

/-- Every instruction has 1 to 3 bytes (R50). -/
theorem Instr.length_bounds (i : Instr) : 1 ≤ i.length ∧ i.length ≤ 3 := by
  cases i <;> simp [Instr.length]

/-- Settles O47: the sum of `pc` and the length is below 65536. -/
theorem everyStepAdvancesPcByTheLength : Obligations.EveryStepAdvancesPcByTheLength := by
  intro s t h
  obtain ⟨i, rest, u, hd, hw, ⟨hpc, -⟩, rfl⟩ := step_next_cases h
  obtain ⟨h1, h3⟩ := Instr.length_bounds i
  have hadd : (s.pc + BitVec.ofNat 16 i.length).toNat = s.pc.toNat + i.length := by
    rw [BitVec.toNat_add, BitVec.toNat_ofNat, Nat.mod_eq_of_lt (show i.length < 2 ^ 16 by omega), Nat.mod_eq_of_lt hw]
  exact ⟨i, rest, hd, h1, h3, by rw [State.advance_pc, hpc, hadd]⟩

/-- A step that goes on keeps the ROM space, the parameters and the mark. -/
theorem launchKept_of_step {s t : State} (h : step s = .next t) : LaunchKept s t := by
  obtain ⟨_, _, _, -, -, ⟨-, hkept, -⟩, rfl⟩ := step_next_cases h
  exact hkept

/-- Settles O51: an instruction's meaning keeps the canonical form of the data space and everything else the invariant names. -/
theorem everyStepKeepsTheInvariant : Obligations.EveryStepKeepsTheInvariant := by
  intro s t ⟨hdata, hrom, hparams, hrefused⟩ h
  obtain ⟨_, _, u, -, -, ⟨-, ⟨hrom', hparams', hrefused'⟩, hwf⟩, rfl⟩ := step_next_cases h
  exact ⟨hwf hdata, hrom' ▸ hrom, hparams' ▸ hparams, hrefused'.trans hrefused⟩

/-- Settles O52: the reset state evaluated. -/
theorem resetMeetsTheInvariant : Obligations.ResetMeetsTheInvariant :=
  ⟨Memory.wf_nil 512, Memory.wf_nil 65536, rfl, rfl⟩

/-! Runs: the first step and the rest. -/

section Runs
variable {M : Host.Core} {n : Nat} {s u : M.State}

theorem core_run_succ_of_next (h : M.step s = .next u) : M.run (n + 1) s = M.run n u := by
  rw [Host.Core.run, h]

theorem core_run_succ_of_fault {f : M.Fault} (h : M.step s = .fault f) : M.run (n + 1) s = .fault f := by
  rw [Host.Core.run, h]

theorem core_run_succ_of_refused {r : M.Refusal} (h : M.step s = .refused r) : M.run (n + 1) s = .refused r := by
  rw [Host.Core.run, h]

end Runs

/-- A run of no step answers the state it starts from. -/
theorem run_zero {s u : State} (h : Host.Core.run Sys2Proof.core 0 s = .next u) : u = s := by
  cases h
  rfl

/-- Settles O48: each of the steps moves `pc` up by 1 to 3, and `pc` has 16 bits. -/
theorem runsAreBoundedByThePc : Obligations.RunsAreBoundedByThePc := by
  intro n
  induction n with
  | zero =>
    intro s t h
    cases run_zero h
    omega
  | succ n ih =>
    intro s t h
    obtain ⟨u, hs, hu⟩ := run_succ h
    obtain ⟨i, -, -, h1, h3, hpc⟩ := everyStepAdvancesPcByTheLength s u hs
    obtain ⟨hlow, hhigh, -⟩ := ih u t hu
    have ht := t.pc.isLt
    omega

/-- Settles O50: each of the steps keeps them. -/
theorem launchParametersNeverChange : Obligations.LaunchParametersNeverChange := by
  intro n
  induction n with
  | zero =>
    intro s t h
    cases run_zero h
    exact ⟨rfl, rfl⟩
  | succ n ih =>
    intro s t h
    obtain ⟨u, hs, hu⟩ := run_succ h
    obtain ⟨hrom, hparams, -⟩ := launchKept_of_step hs
    obtain ⟨hrom', hparams'⟩ := ih u t hu
    exact ⟨hrom'.trans hrom, hparams'.trans hparams⟩

/-- Where a run stands at `halt_pc`, it goes no further. -/
theorem no_run_from_end {n : Nat} {s t : State} (hh : s.params.haltPc = some s.pc) (hr : s.refused = false) :
    Host.Core.run Sys2Proof.core (n + 1) s ≠ .next t := by
  rw [core_run_succ_of_fault (M := Sys2Proof.core) (step_of_halt hr hh)]
  nofun

/-- Settles O49: both runs take the same steps, and neither goes on from `halt_pc`. -/
theorem normalEndIsUnique : Obligations.NormalEndIsUnique := by
  intro n
  induction n with
  | zero =>
    rintro m s t u ⟨ht, hh, hr⟩ ⟨hu, -, -⟩
    cases run_zero ht
    cases m with
    | zero => exact ⟨rfl, (run_zero hu).symm⟩
    | succ m => exact absurd hu (no_run_from_end hh hr)
  | succ n ih =>
    rintro m s t u ⟨ht, htEnd⟩ ⟨hu, huEnd⟩
    cases m with
    | zero =>
      cases run_zero hu
      exact absurd ht (no_run_from_end huEnd.1 huEnd.2)
    | succ m =>
      obtain ⟨v, hs, ht⟩ := run_succ ht
      rw [core_run_succ_of_next (M := Sys2Proof.core) hs] at hu
      obtain ⟨hnm, htu⟩ := ih m v t u ⟨ht, htEnd⟩ ⟨hu, huEnd⟩
      exact ⟨congrArg (· + 1) hnm, htu⟩

/-! The marked run (R22). -/

/-- A state that a marked run leaves, against the outcome of the run: the state it goes on with, or the mark. -/
def MarkedAs (w : State) : Host.Outcome State Fault Refusal → Prop
  | .next t => w = t ∧ t.refused = false
  | .fault _ => w.refused = false
  | .refused _ => w.refused = true

theorem markedAs_run (n : Nat) {s : State} (h : s.refused = false) :
    MarkedAs (runMarked n s) (Host.Core.run Sys2Proof.core n s) := by
  induction n generalizing s with
  | zero => exact ⟨rfl, h⟩
  | succ n ih =>
    cases hs : step s with
    | next u =>
      rw [runMarked_succ_next hs, core_run_succ_of_next (M := Sys2Proof.core) hs]
      exact ih ((launchKept_of_step hs).2.2.trans h)
    | fault f =>
      rw [runMarked_succ_fault hs, core_run_succ_of_fault (M := Sys2Proof.core) hs]
      exact h
    | refused r =>
      rw [runMarked_succ_refused hs, core_run_succ_of_refused (M := Sys2Proof.core) hs]
      exact s.markRefused_refused

/-- A marked run goes no further. -/
theorem runMarked_of_refused {s : State} (h : s.refused = true) (m : Nat) : runMarked m s = s := by
  cases m with
  | zero => rfl
  | succ m =>
    rw [runMarked_succ_refused (step_of_refused h), State.markRefused, ← h]

/-- Settles O57: the marked run against the outcome of the run, and no step from a marked state. -/
theorem refusalMarksTheRun : Obligations.RefusalMarksTheRun := by
  intro n s h
  have hm := markedAs_run n h
  refine ⟨fun t ht => by rw [ht] at hm; exact hm, ?_, runMarked_of_refused⟩
  cases hrun : Host.Core.run Sys2Proof.core n s with
  | next t =>
    rw [hrun] at hm
    obtain ⟨hw, ht⟩ := hm
    simp [hw, ht]
  | fault f =>
    rw [hrun] at hm
    simp [show (runMarked n s).refused = false from hm]
  | refused r =>
    rw [hrun] at hm
    exact ⟨fun _ => ⟨r, rfl⟩, fun _ => hm⟩

end Sys2Proof.Machine

/-! The overlay read from both sides (R32), and a data read after a data write (R33, R34). -/

namespace Sys2Proof.Machine

section Overlay
variable {m : SfrMap} {a a' : DataAddr} {r : Reg} {f : DataAddr → Option Reg}

theorem SfrMap.lookup_injective (h : SfrMap.lookup m a = some r) (h' : SfrMap.lookup m a' = some r) : a = a' :=
  Option.some.inj ((SfrMap.addressOf_of_lookup h).symm.trans (SfrMap.addressOf_of_lookup h'))

/-- The map with given addresses, register by register. -/
def SfrMap.ofAddresses (g : Reg → Option DataAddr) : SfrMap :=
  { acc := g .acc, b := g .b, c := g .c, psw := g .psw, trl := g .trl, trh := g .trh, sp := g .sp }

theorem SfrMap.addressOf_ofAddresses (g : Reg → Option DataAddr) (r : Reg) : SfrMap.addressOf (SfrMap.ofAddresses g) r = g r := by
  cases r <;> rfl

/-- An injective partial function from addresses to registers, seen from the registers' side. -/
theorem exists_addresses (hf : ∀ a a' r, f a = some r → f a' = some r → a = a') :
    ∃ g : Reg → Option DataAddr, ∀ r a, g r = some a ↔ f a = some r := by
  have each (r : Reg) : ∃ o : Option DataAddr, ∀ a, o = some a ↔ f a = some r := by
    by_cases h : ∃ a, f a = some r
    · obtain ⟨a, ha⟩ := h
      exact ⟨some a, fun a' => ⟨fun e => Option.some.inj e ▸ ha, fun ha' => congrArg some (hf a a' r ha ha')⟩⟩
    · exact ⟨none, fun a => ⟨nofun, fun ha => absurd ⟨a, ha⟩ h⟩⟩
  exact ⟨fun r => (each r).choose, fun r => (each r).choose_spec⟩

/-- A map whose addresses are those of a partial function looks up that function. -/
theorem SfrMap.lookup_eq_of_addressOf (h : ∀ r a, SfrMap.addressOf m r = some a ↔ f a = some r) (a : DataAddr) :
    SfrMap.lookup m a = f a := by
  cases hl : SfrMap.lookup m a with
  | some r => exact ((h r a).mp (SfrMap.addressOf_of_lookup hl)).symm
  | none =>
    refine (Option.eq_none_iff_forall_ne_some.mpr fun r hr => ?_).symm
    exact SfrMap.lookup_none hl r ((h r a).mpr hr)

/-- Settles O7: a register has one address, and the addresses of any injection make a map. -/
theorem sfrMapIsAnyPartialInjection : Obligations.SfrMapIsAnyPartialInjection := by
  refine ⟨fun m a a' r => SfrMap.lookup_injective, fun f hf => ?_⟩
  obtain ⟨g, hg⟩ := exists_addresses hf
  refine ⟨SfrMap.ofAddresses g, SfrMap.lookup_eq_of_addressOf fun r a => ?_⟩
  rw [SfrMap.addressOf_ofAddresses, hg]

end Overlay

section DataReads
variable {s : State} {a : DataAddr} {r : Reg}

theorem State.memRead_of_some (h : s.sfrAt a = some r) : s.memRead a = s.readReg r := by simp [State.memRead, h]

theorem State.memRead_of_none (h : s.sfrAt a = none) : s.memRead a = s.data.read a.toNat := by simp [State.memRead, h]

/-- Settles O8: the register, or the cell, that the address read is. -/
theorem readGivesTheLatestWrite : Obligations.ReadGivesTheLatestWrite := by
  intro s a a' v
  cases h : s.sfrAt a' with
  | some r =>
    have hone : s.sfrAt a = some r ↔ a' = a := ⟨fun ha => SfrMap.lookup_injective h ha, fun e => e ▸ h⟩
    rw [State.memRead_of_some ((State.memWrite_sfrAt ..).trans h), State.readReg_memWrite, State.memRead_of_some h]
    simp only [hone]
  | none =>
    have hone : s.sfrAt a = none ∧ a'.toNat = a.toNat ↔ a' = a :=
      ⟨fun ⟨_, e⟩ => BitVec.eq_of_toNat_eq e, fun e => e ▸ ⟨h, rfl⟩⟩
    rw [State.memRead_of_none ((State.memWrite_sfrAt ..).trans h), State.cell_memWrite, State.memRead_of_none h]
    simp only [hone]

end DataReads
end Sys2Proof.Machine

/-! The adders (R71 to R76): the flags as bits of the operands and the result, and what storing an adder's result does. -/

namespace Sys2Proof.Machine

section AdderFlags
variable {a x : Byte} {k : Bool}

theorem outsideSigned8_eq_true_iff (v : Int) : outsideSigned8 v = true ↔ v < -128 ∨ 127 < v := by
  simp [outsideSigned8]

/-! The adders' results and flags in the words of R71 and R72. -/

theorem addFlags_res_toNat : (addFlags a x k).res.toNat = (a.toNat + x.toNat + k.toNat) % 256 := BitVec.toNat_ofNat ..

theorem addFlags_cy_iff : (addFlags a x k).cy = true ↔ 255 < a.toNat + x.toNat + k.toNat := decide_eq_true_iff

theorem addFlags_ac_iff : (addFlags a x k).ac = true ↔ 15 < a.toNat % 16 + x.toNat % 16 + k.toNat := decide_eq_true_iff

theorem addFlags_ov_iff :
    (addFlags a x k).ov = true ↔ a.toInt + x.toInt + k.toNat < -128 ∨ 127 < a.toInt + x.toInt + k.toNat :=
  outsideSigned8_eq_true_iff _

theorem subFlags_res_toNat :
    ((subFlags a x k).res.toNat : Int) = ((a.toNat : Int) - x.toNat - k.toNat) % 256 := by
  simp only [subFlags, BitVec.toNat_ofInt]
  omega

theorem subFlags_cy_iff : (subFlags a x k).cy = true ↔ a.toNat < x.toNat + k.toNat :=
  decide_eq_true_iff.trans (by omega)

theorem subFlags_ac_iff : (subFlags a x k).ac = true ↔ a.toNat % 16 < x.toNat % 16 + k.toNat :=
  decide_eq_true_iff.trans (by omega)

theorem subFlags_ov_iff :
    (subFlags a x k).ov = true ↔ a.toInt - x.toInt - k.toNat < -128 ∨ 127 < a.toInt - x.toInt - k.toNat :=
  outsideSigned8_eq_true_iff _

/-! Signs. -/

/-- The sign bit of a byte, from its number. -/
theorem getLsbD_seven_iff (v : Byte) : v.getLsbD 7 = true ↔ 128 ≤ v.toNat := by
  rw [← BitVec.msb_eq_getLsbD_last v, BitVec.msb_eq_decide, decide_eq_true_iff]

/-- A byte as a signed number. -/
theorem toInt_byte (v : Byte) : v.toInt = if 128 ≤ v.toNat then (v.toNat : Int) - 256 else v.toNat := by
  rw [BitVec.toInt_eq_toNat_cond]
  split <;> split <;> omega

/-- Where two bits differ and two other bits differ. -/
theorem xor_and_xor_seven_iff (p q u v : Byte) :
    ((p ^^^ q) &&& (u ^^^ v)).getLsbD 7 = true ↔
      ¬ (128 ≤ p.toNat ↔ 128 ≤ q.toNat) ∧ ¬ (128 ≤ u.toNat ↔ 128 ≤ v.toNat) := by
  simp only [BitVec.getLsbD_and, BitVec.getLsbD_xor, Bool.and_eq_true, bne_iff_ne, ne_eq, ← getLsbD_seven_iff,
    Bool.coe_iff_coe]

/-- Settles O9: with the sign of each operand, signed overflow is the result's sign against theirs. -/
theorem addFlagsAgreeWithTheBitFormula : Obligations.AddFlagsAgreeWithTheBitFormula := by
  intro a x k
  have ha := a.isLt
  have hx := x.isLt
  have hk := k.toNat_le
  have hr := addFlags_res_toNat (a := a) (x := x) (k := k)
  constructor
  · rw [Bool.eq_iff_iff, addFlags_ov_iff, xor_and_xor_seven_iff, toInt_byte, toInt_byte]
    split <;> split <;> omega
  · by_cases hcy : 255 < a.toNat + x.toNat + k.toNat
    · rw [addFlags_cy_iff.mpr hcy, Bool.toNat_true]
      omega
    · rw [Bool.eq_false_of_not_eq_true (mt addFlags_cy_iff.mp hcy), Bool.toNat_false]
      omega

/-- Settles O10: with the sign of each operand, signed overflow is the result's sign against theirs. -/
theorem subFlagsAgreeWithTheBitFormula : Obligations.SubFlagsAgreeWithTheBitFormula := by
  intro a x k
  have ha := a.isLt
  have hx := x.isLt
  have hk := k.toNat_le
  have hr := subFlags_res_toNat (a := a) (x := x) (k := k)
  constructor
  · rw [Bool.eq_iff_iff, subFlags_ov_iff, xor_and_xor_seven_iff, toInt_byte, toInt_byte]
    split <;> split <;> omega
  · by_cases hcy : a.toNat < x.toNat + k.toNat
    · rw [subFlags_cy_iff.mpr hcy, Bool.toNat_true]
      omega
    · rw [Bool.eq_false_of_not_eq_true (mt subFlags_cy_iff.mp hcy), Bool.toNat_false]
      omega

end AdderFlags

/-! Storing an adder's result. -/

section Adders
variable {s : State} {x : Byte} {k : Bool} {len : Nat} {r : AluResult} {i : Instr}

theorem addEffect_putAlu (h : s.params.pswLayout.wellFormed = true) :
    AddEffect x k.toNat s ((s.putAlu (addFlags s.acc x k)).advance len) := by
  refine ⟨addFlags_res_toNat, ?_, ?_, ?_⟩
  · rw [State.advance_cy, State.putAlu_cy _ _ h, addFlags_cy_iff]
  · rw [State.advance_ac, State.putAlu_ac _ _ h, addFlags_ac_iff]
  · rw [State.advance_ov, State.putAlu_ov, addFlags_ov_iff]

theorem subEffect_putAlu (h : s.params.pswLayout.wellFormed = true) :
    SubEffect x k.toNat s ((s.putAlu (subFlags s.acc x k)).advance len) := by
  refine ⟨subFlags_res_toNat, ?_, ?_, ?_⟩
  · rw [State.advance_cy, State.putAlu_cy _ _ h, subFlags_cy_iff]
  · rw [State.advance_ac, State.putAlu_ac _ _ h, subFlags_ac_iff]
  · rw [State.advance_ov, State.putAlu_ov, subFlags_ov_iff]

theorem adderFrame_putAlu : AdderFrame len s ((s.putAlu r).advance len) := by
  refine ⟨⟨fun _ hr => (State.readReg_advance ..).trans (State.readReg_putAlu r hr), fun _ => rfl, rfl, rfl, rfl, rfl⟩, ?_⟩
  intro j hj
  obtain ⟨hcy, hac, hov⟩ : j ≠ s.params.pswLayout.posCy ∧ j ≠ s.params.pswLayout.posAc ∧ j ≠ s.params.pswLayout.posOv := by
    simpa using hj
  rw [State.advance_psw, State.getLsbD_putAlu_psw, if_neg hov, if_neg hac, if_neg hcy]

/-- What `add` and `addc` do. -/
theorem completes_of_addFlags (h : s.params.pswLayout.wellFormed = true)
    (hi : exec i s = .next ((s.putAlu (addFlags s.acc x k)).advance len)) :
    Completes i s fun t => AddEffect x k.toNat s t ∧ AdderFrame len s t := ⟨_, hi, addEffect_putAlu h, adderFrame_putAlu⟩

/-- What `sub` and `subc` do. -/
theorem completes_of_subFlags (h : s.params.pswLayout.wellFormed = true)
    (hi : exec i s = .next ((s.putAlu (subFlags s.acc x k)).advance len)) :
    Completes i s fun t => SubEffect x k.toNat s t ∧ AdderFrame len s t := ⟨_, hi, subEffect_putAlu h, adderFrame_putAlu⟩

end Adders

/-- Settles O11: the three forms store the adder's result without a carry. -/
theorem addCompletes : Obligations.AddCompletes := fun _ h =>
  ⟨fun _ => completes_of_addFlags (k := false) h rfl, fun _ => completes_of_addFlags (k := false) h rfl,
    fun _ => completes_of_addFlags (k := false) h rfl⟩

/-- Settles O12: the three forms store the adder's result with the carry before the instruction. -/
theorem addcCompletes : Obligations.AddcCompletes := fun _ h =>
  ⟨fun _ => completes_of_addFlags h rfl, fun _ => completes_of_addFlags h rfl, fun _ => completes_of_addFlags h rfl⟩

/-- Settles O13: the three forms store the subtracter's result without a borrow. -/
theorem subCompletes : Obligations.SubCompletes := fun _ h =>
  ⟨fun _ => completes_of_subFlags (k := false) h rfl, fun _ => completes_of_subFlags (k := false) h rfl,
    fun _ => completes_of_subFlags (k := false) h rfl⟩

/-- Settles O14: the three forms store the subtracter's result with the carry before the instruction as borrow. -/
theorem subcCompletes : Obligations.SubcCompletes := fun _ h =>
  ⟨fun _ => completes_of_subFlags h rfl, fun _ => completes_of_subFlags h rfl, fun _ => completes_of_subFlags h rfl⟩

end Sys2Proof.Machine

/-! `mul` and `div` (R79 to R81): the products and quotients as bytes, and the flags they write. -/

namespace Sys2Proof.Machine

section Products
variable {s : State} {acc c b : Byte} {ov : Bool} {len : Nat}

/-- A 24-bit number by its bytes. -/
theorem bytes24 (p : BitVec 24) : (p.extractLsb' 16 8).toNat * 65536 + (p.extractLsb' 8 8).toNat * 256 +
    (p.extractLsb' 0 8).toNat = p.toNat := by
  have hp := p.isLt
  simp only [BitVec.extractLsb'_toNat, Nat.shiftRight_eq_div_pow]
  omega

/-- A 16-bit number by its bytes. -/
theorem bytes16 (p : BitVec 16) : (p.extractLsb' 8 8).toNat * 256 + (p.extractLsb' 0 8).toNat = p.toNat := by
  have hp := p.isLt
  simp only [BitVec.extractLsb'_toNat, Nat.shiftRight_eq_div_pow]
  omega

theorem product_toNat : s.product.toNat = argument16 s * s.b.toNat := by
  have hlt : s.accC.toNat * s.b.toNat < 2 ^ 24 :=
    calc s.accC.toNat * s.b.toNat < 2 ^ 16 * 2 ^ 8 := Nat.mul_lt_mul'' s.accC.isLt s.b.isLt
      _ = 2 ^ 24 := rfl
  rw [State.product, BitVec.toNat_ofNat, Nat.mod_eq_of_lt hlt, State.accC_toNat, argument16]

theorem quotient_toNat : s.quotient.toNat = argument16 s / s.b.toNat := by
  rw [State.quotient, BitVec.toNat_ofNat, Nat.mod_eq_of_lt (Nat.lt_of_le_of_lt (Nat.div_le_self ..) s.accC.isLt),
    State.accC_toNat, argument16]

theorem divisor_pos (hb : s.b ≠ 0) : 0 < s.b.toNat := Nat.pos_of_ne_zero fun e => hb (BitVec.eq_of_toNat_eq e)

theorem remainder_toNat (hb : s.b ≠ 0) : s.remainder.toNat = argument16 s % s.b.toNat := by
  rw [State.remainder, BitVec.toNat_ofNat, Nat.mod_eq_of_lt (Nat.lt_trans (Nat.mod_lt _ (divisor_pos hb)) s.b.isLt),
    State.accC_toNat, argument16]

/-- The product goes to the registers that a division writes, with the flags it writes. -/
theorem multiply_eq_putDiv : s.multiply = s.putDiv (s.product.extractLsb' 8 8) (s.product.extractLsb' 0 8)
    (s.product.extractLsb' 16 8) (decide (0xFFFF < s.product.toNat)) := rfl

/-- `div` by a divisor that is not 0 (R80). -/
theorem divide_of_ne (hb : s.b ≠ 0) : s.divide =
    s.putDiv (s.quotient.extractLsb' 8 8) (s.quotient.extractLsb' 0 8) s.remainder (decide (s.remainder = 0)) := if_neg hb

/-- `div` by 0 (R81). -/
theorem divide_of_eq (hb : s.b = 0) : s.divide = s.putDiv (Config.div0 s.acc s.c).acc (Config.div0 s.acc s.c).c
    (Config.div0 s.acc s.c).b (Config.div0 s.acc s.c).ov := if_pos hb

/-! What storing the results does beside them: `cy` is cleared, `ov` is written, every other bit of `psw` is kept. -/

theorem putDiv_cy (h : s.params.pswLayout.wellFormed = true) : ((s.putDiv acc c b ov).advance len).cy = false :=
  (State.putOv_cy ((((s.setAcc acc).setC c).setB b).putCy false) ov h).trans (State.putCy_cy _ _)

theorem putDiv_ov : ((s.putDiv acc c b ov).advance len).ov = ov :=
  State.putOv_ov ((((s.setAcc acc).setC c).setB b).putCy false) ov

theorem putDiv_ac (h : s.params.pswLayout.wellFormed = true) : ((s.putDiv acc c b ov).advance len).ac = s.ac :=
  (State.putOv_ac ((((s.setAcc acc).setC c).setB b).putCy false) ov h).trans
    (State.putCy_ac (((s.setAcc acc).setC c).setB b) false h)

theorem pswBitsKeptBut_putDiv : PswBitsKeptBut [s.params.pswLayout.posCy, s.params.pswLayout.posOv] s
    ((s.putDiv acc c b ov).advance len) := by
  intro j hj
  obtain ⟨hcy, hov⟩ : j ≠ s.params.pswLayout.posCy ∧ j ≠ s.params.pswLayout.posOv := by simpa using hj
  exact ((getLsbD_putBit _ _ j ov).trans (if_neg hov)).trans ((getLsbD_putBit s.psw _ j false).trans (if_neg hcy))

theorem registerFrame_putDiv : RegisterFrame [.acc, .b, .c, .psw] len s ((s.putDiv acc c b ov).advance len) := by
  refine ⟨fun r hr => ?_, fun _ => rfl, rfl, rfl, rfl, rfl⟩
  obtain ⟨hacc, hb, hc, hpsw⟩ : r ≠ .acc ∧ r ≠ .b ∧ r ≠ .c ∧ r ≠ .psw := by simpa using hr
  simp [State.putDiv, hacc, hb, hc, hpsw]

end Products

/-- The outcome that goes on after an instruction of a given length. -/
def nextAt (len : Nat) (u : State) : Host.Outcome State Fault Refusal := .next (u.advance len)

/-- Settles O16: the bytes of the 24-bit product, and the flags. -/
theorem mulCompletes : Obligations.MulCompletes := by
  refine fun s h => ⟨_, congrArg (nextAt 1) multiply_eq_putDiv, (bytes24 s.product).trans product_toNat, putDiv_cy h, ?_,
    putDiv_ac h, registerFrame_putDiv, pswBitsKeptBut_putDiv⟩
  rw [putDiv_ov, decide_eq_true_iff, product_toNat]

/-- Settles O17: the bytes of the quotient, the remainder, and the flags. -/
theorem divCompletes : Obligations.DivCompletes := by
  intro s h hb
  have hrem := remainder_toNat hb
  refine ⟨_, congrArg (nextAt 1) (divide_of_ne hb), ?_, hrem ▸ Nat.mod_lt _ (divisor_pos hb), putDiv_cy h, ?_, putDiv_ac h,
    registerFrame_putDiv, pswBitsKeptBut_putDiv⟩
  · calc _ = s.quotient.toNat * s.b.toNat + s.remainder.toNat := by rw [← bytes16 s.quotient]; rfl
      _ = argument16 s / s.b.toNat * s.b.toNat + argument16 s % s.b.toNat := by rw [quotient_toNat, hrem]
      _ = argument16 s := Nat.div_add_mod' ..
  · rw [putDiv_ov, decide_eq_true_iff]
    rfl

/-- Settles O18: the free value's registers and `ov`, whatever they are. -/
theorem divByZeroCompletes : Obligations.DivByZeroCompletes := fun _ h hb =>
  ⟨_, congrArg (nextAt 1) (divide_of_eq hb), rfl, rfl, rfl, putDiv_ov, putDiv_cy h, putDiv_ac h, registerFrame_putDiv,
    pswBitsKeptBut_putDiv⟩

/-! Writing `cy` twice, and writing back what is there. -/

section Rewriting
variable {s : State} {v : Byte} {k : Fin 8} {x y : Bool}

theorem putBit_putBit : putBit (putBit v k x) k y = putBit v k y := by
  refine BitVec.eq_of_getLsbD_eq fun j hj => ?_
  have hbit (w : Byte) (z : Bool) := getLsbD_putBit w k ⟨j, hj⟩ z
  simp only [hbit]
  split <;> rfl

theorem putBit_self : putBit v k (v.getLsbD k.val) = v := by
  refine BitVec.eq_of_getLsbD_eq fun j hj => (getLsbD_putBit v k ⟨j, hj⟩ _).trans ?_
  split
  next h => rw [← h]
  next => rfl

theorem State.putCy_putCy : (s.putCy x).putCy y = s.putCy y := congrArg s.setPsw putBit_putBit

theorem State.putCy_self : s.putCy s.cy = s := congrArg s.setPsw putBit_self

/-- An adder's result overwrites `cy`. -/
theorem State.putAlu_putCy (r : AluResult) : (s.putCy x).putAlu r = s.putAlu r :=
  congrArg (fun u => (u.putAc r.ac).putOv r.ov) (State.putCy_putCy (s := s.setAcc r.res))

/-- A division's results overwrite `cy`. -/
theorem State.putDiv_putCy (acc c b : Byte) (ov : Bool) : (s.putCy x).putDiv acc c b ov = s.putDiv acc c b ov :=
  congrArg (·.putOv ov) (State.putCy_putCy (s := ((s.setAcc acc).setC c).setB b))

theorem State.multiply_putCy : (s.putCy x).multiply = s.multiply := State.putDiv_putCy ..

/-- Neither the choice of the divisor nor the results depend on `cy`. -/
theorem State.divide_putCy : (s.putCy x).divide = s.divide := by
  by_cases hb : s.b = 0
  · rw [divide_of_eq hb, divide_of_eq (s := s.putCy x) hb, State.putDiv_putCy]
    rfl
  · rw [divide_of_ne hb, divide_of_ne (s := s.putCy x) hb, State.putDiv_putCy]
    rfl

end Rewriting

/-- Settles O19: the results do not depend on `cy`, and overwrite it. -/
theorem incomingCarryIsNotRead : Obligations.IncomingCarryIsNotRead := fun s _ v =>
  ⟨congrArg (nextAt 2) (State.putAlu_putCy (addFlags s.acc v false)),
    congrArg (nextAt 2) (State.putAlu_putCy (subFlags s.acc v false)),
    congrArg (nextAt 1) State.multiply_putCy,
    congrArg (nextAt 1) State.divide_putCy⟩

/-! The Bitwise family (R91 to R97). -/

/-- Settles O20: the bits of an `and`. -/
theorem andCompletes : Obligations.AndCompletes := fun _ =>
  ⟨fun _ => ⟨_, rfl, fun _ => BitVec.getLsbD_and, registerFrame_setAcc⟩,
    fun _ => ⟨_, rfl, fun _ => BitVec.getLsbD_and, registerFrame_setAcc⟩,
    fun _ => ⟨_, rfl, fun _ => BitVec.getLsbD_and, registerFrame_setAcc⟩⟩

/-- Settles O21: the bits of an `or`. -/
theorem orCompletes : Obligations.OrCompletes := fun _ =>
  ⟨fun _ => ⟨_, rfl, fun _ => BitVec.getLsbD_or, registerFrame_setAcc⟩,
    fun _ => ⟨_, rfl, fun _ => BitVec.getLsbD_or, registerFrame_setAcc⟩,
    fun _ => ⟨_, rfl, fun _ => BitVec.getLsbD_or, registerFrame_setAcc⟩⟩

/-- Settles O22: the bits of an `xor`. -/
theorem xorCompletes : Obligations.XorCompletes := fun _ =>
  ⟨fun _ => ⟨_, rfl, fun _ => BitVec.getLsbD_xor, registerFrame_setAcc⟩,
    fun _ => ⟨_, rfl, fun _ => BitVec.getLsbD_xor, registerFrame_setAcc⟩,
    fun _ => ⟨_, rfl, fun _ => BitVec.getLsbD_xor, registerFrame_setAcc⟩⟩

section Rotating
variable {s : State} {v : Byte} {x : Bool}

/-- The bit that came in at the bottom is there. -/
theorem getLsbD_shiftInLow_zero : (shiftInLow v x).getLsbD 0 = x := getLsbD_shiftInLow (j := 0)

/-- A move to the right with the bit that left at the top undoes a move to the left. -/
theorem shiftInHigh_shiftInLow : shiftInHigh (shiftInLow v x) (v.getLsbD 7) = v := by
  refine BitVec.eq_of_getLsbD_eq fun j hj => (getLsbD_shiftInHigh (j := ⟨j, hj⟩)).trans ?_
  split
  next h => rw [← h]
  next h => exact (getLsbD_shiftInLow (j := ⟨j + 1, by dsimp only at h; omega⟩)).trans (if_neg (Nat.succ_ne_zero j))

theorem State.advance_advance (m n : Nat) : (s.advance m).advance n = s.advance (m + n) := by
  simp [State.advance, State.setPc, BitVec.add_assoc, BitVec.ofNat_add]

/-- Writing `acc` and `cy` and then writing back what was there. -/
theorem setAcc_putCy_undone {m n : Nat} :
    (((((s.setAcc v).putCy x).advance m).setAcc s.acc).putCy s.cy).advance n = s.advance (m + n) :=
  calc _ = (((s.putCy x).putCy s.cy).advance m).advance n := rfl
    _ = s.advance (m + n) := by rw [State.putCy_putCy, State.putCy_self, State.advance_advance]

theorem exec_ror (u : State) : exec .ror u = .next ((u.setAcc (shiftInHigh u.acc (u.acc.getLsbD 0))).advance 1) := rfl

theorem exec_rorc (u : State) :
    exec .rorc u = .next (((u.setAcc (shiftInHigh u.acc u.cy)).putCy (u.acc.getLsbD 0)).advance 1) := rfl

end Rotating

/-- Settles O27: the bit that left at the top comes in again at the top, and the bit that came in at the bottom leaves. -/
theorem rightRotateUndoesLeftRotate : Obligations.RightRotateUndoesLeftRotate := by
  refine fun s => ⟨⟨_, rfl, ?_⟩, ⟨_, rfl, ?_⟩⟩
  · rw [exec_ror, State.advance_acc, State.setAcc_acc, getLsbD_shiftInLow_zero, shiftInHigh_shiftInLow]
    exact congrArg Host.Outcome.next (State.advance_advance (s := s) 1 1)
  · rw [exec_rorc, State.advance_acc, State.putCy_acc, State.setAcc_acc, State.advance_cy, State.putCy_cy,
      getLsbD_shiftInLow_zero, shiftInHigh_shiftInLow, setAcc_putCy_undone]

end Sys2Proof.Machine

/-! The Memory/Storage family and `inc`, `dec` (R77, R78, R111 to R117): what a store to a data address does, alone and with `acc` or
`sp` written beside it. -/

namespace Sys2Proof.Machine

section Stores
variable {s t : State} {a : DataAddr} {v w : Byte} {len : Nat} {r : Reg}

theorem State.memRead_advance : (s.advance len).memRead a = s.memRead a := by
  cases h : s.sfrAt a with
  | some r => rw [State.memRead_of_some h, State.memRead_of_some ((s.advance_sfrAt len a).trans h), State.readReg_advance]
  | none => rw [State.memRead_of_none h, State.memRead_of_none ((s.advance_sfrAt len a).trans h), State.advance_data]

/-- A write of a register is seen at the register's address and nowhere else. -/
theorem State.memRead_writeReg : (s.writeReg r w).memRead a = if s.sfrAt a = some r then w else s.memRead a := by
  have hat : (s.writeReg r w).sfrAt a = s.sfrAt a := State.sfrAt_congr (s.writeReg_params r w) a
  cases h : s.sfrAt a with
  | some r' =>
    rw [State.memRead_of_some (hat.trans h), State.readReg_writeReg, State.memRead_of_some h]
    simp only [Option.some.injEq]
  | none => rw [State.memRead_of_none (hat.trans h), State.writeReg_data, State.memRead_of_none h, if_neg nofun]

theorem State.memRead_memWrite_same : (s.memWrite a v).memRead a = v :=
  (readGivesTheLatestWrite s a a v).trans (if_pos rfl)

/-- MemWrite leaves a cell alone that is not the one at the address. -/
theorem State.cell_memWrite_of_ne {k : Nat} (h : ¬ (s.sfrAt a = none ∧ k = a.toNat)) :
    (s.memWrite a v).data.read k = s.data.read k := (s.cell_memWrite a v k).trans (if_neg h)

/-- The flags are bits of `psw` at places that the parameters give (R14). -/
theorem flagsKept_of_psw_eq (hpsw : t.psw = s.psw) (hparams : t.params = s.params) : FlagsKept s t := by
  simp [FlagsKept, State.cy, State.ac, State.ov, hpsw, hparams]

theorem advanced_memWrite : Advanced len s ((s.memWrite a v).advance len) :=
  ⟨by simp, by simp [LaunchKept]⟩

/-- A store keeps the flags unless it is to `psw`. -/
theorem flagsKept_memWrite (h : s.sfrAt a ≠ some .psw) : FlagsKept s ((s.memWrite a v).advance len) :=
  flagsKept_of_psw_eq (State.readReg_memWrite_of_ne (r := .psw) v h) (s.memWrite_params a v)

theorem stored_memWrite : Stored [] a v s ((s.memWrite a v).advance len) :=
  ⟨State.memRead_advance.trans State.memRead_memWrite_same,
    fun _ _ h => (State.readReg_advance ..).trans (State.readReg_memWrite_of_ne v h), fun _ h => State.cell_memWrite_of_ne h⟩

/-- A store to the address of a register is seen in the register. -/
theorem State.readReg_memWrite_same (h : s.sfrAt a = some r) : (s.memWrite a v).readReg r = v :=
  (s.readReg_memWrite a v r).trans (if_pos h)

/-- What `st` and `mov` do. -/
theorem memWrite_effect : Stored [] a v s ((s.memWrite a v).advance len) ∧
    (s.sfrAt a ≠ some .psw → FlagsKept s ((s.memWrite a v).advance len)) ∧
    (s.sfrAt a = some .psw → ((s.memWrite a v).advance len).psw = v) ∧ Advanced len s ((s.memWrite a v).advance len) :=
  ⟨stored_memWrite, flagsKept_memWrite, State.readReg_memWrite_same (r := .psw), advanced_memWrite⟩

end Stores

/-- Settles O30: both forms store the constant at the operand's address. -/
theorem movCompletes : Obligations.MovCompletes := fun _ _ =>
  ⟨fun _ => ⟨_, rfl, memWrite_effect⟩, fun _ => ⟨_, rfl, memWrite_effect⟩⟩

/-- A store of `acc` leaves `acc`, at the address of `acc` too. -/
theorem State.memWrite_acc_acc (s : State) (a : DataAddr) : (s.memWrite a s.acc).acc = s.acc :=
  (s.readReg_memWrite a s.acc .acc).trans (ite_self _)

/-- Settles O29: both forms store `acc` at the operand's address. -/
theorem stCompletes : Obligations.StCompletes := fun s =>
  ⟨fun a => ⟨_, rfl, stored_memWrite, s.memWrite_acc_acc a, memWrite_effect.2⟩,
    fun i => ⟨_, rfl, stored_memWrite, s.memWrite_acc_acc (s.indAddr i), memWrite_effect.2⟩⟩

theorem add_one_eq_ofNat (v : Byte) : v + 1 = BitVec.ofNat 8 ((v.toNat + 1) % 256) := by
  apply BitVec.eq_of_toNat_eq
  simp [BitVec.toNat_add]

theorem sub_one_eq_ofNat (v : Byte) : v - 1 = BitVec.ofNat 8 ((v.toNat + 255) % 256) := by
  apply BitVec.eq_of_toNat_eq
  simp [BitVec.toNat_sub, Nat.add_comm]

/-- What `inc` and `dec` do. -/
theorem completes_of_update {i : Instr} {s : State} {a : DataAddr} {v w : Byte} {len : Nat} (hv : v = w)
    (h : exec i s = .next ((s.memWrite a v).advance len)) : Completes i s fun t =>
      Stored [] a w s t ∧ (s.sfrAt a ≠ some .psw → FlagsKept s t) ∧ Advanced len s t :=
  ⟨_, h, hv ▸ stored_memWrite, flagsKept_memWrite, advanced_memWrite⟩

/-- Settles O15: the four forms store the changed byte where it was read. -/
theorem incDecComplete : Obligations.IncDecComplete := fun _ =>
  ⟨fun _ => completes_of_update (add_one_eq_ofNat _) rfl, fun _ => completes_of_update (add_one_eq_ofNat _) rfl,
    fun _ => completes_of_update (sub_one_eq_ofNat _) rfl, fun _ => completes_of_update (sub_one_eq_ofNat _) rfl⟩

/-- The ROM address of `ldc` as a number (R114). -/
theorem State.ldcAddr_toNat (s : State) : s.ldcAddr.toNat = (s.trh.toNat * 256 + s.trl.toNat + s.acc.toNat) % 65536 := by
  rw [State.ldcAddr, BitVec.toNat_add, State.tr_toNat, BitVec.toNat_setWidth_of_le (by decide)]

/-- Settles O31: a load of `acc` from the ROM space. -/
theorem ldcCompletes : Obligations.LdcCompletes := fun s => by
  rw [← s.ldcAddr_toNat]
  exact completes_of_setAcc rfl

/-! The exchange (R117). -/

section Exchange
variable {s : State} {a : DataAddr} {len : Nat} {i : Instr}

/-- What `xch` does; at the address of `acc` both writes are of the one byte. -/
theorem completes_of_exchange (h : exec i s = .next (((s.memWrite a s.acc).setAcc (s.memRead a)).advance len)) :
    Completes i s fun t => Stored [.acc] a s.acc s t ∧ t.acc = s.memRead a ∧ (s.sfrAt a ≠ some .psw → FlagsKept s t) ∧
      Advanced len s t := by
  refine ⟨_, h, ⟨?_, fun r hr ha => ?_, fun k hk => State.cell_memWrite_of_ne hk⟩, rfl,
    flagsKept_memWrite (len := len), advanced_memWrite⟩
  · refine State.memRead_advance.trans ((State.memRead_writeReg (r := .acc)).trans ?_)
    rw [State.memWrite_sfrAt, State.memRead_memWrite_same]
    split
    next ha => exact State.memRead_of_some ha
    next => rfl
  · exact (State.readReg_advance ..).trans
      ((State.readReg_setAcc _ (List.ne_of_not_mem_cons hr)).trans (State.readReg_memWrite_of_ne _ ha))

end Exchange

/-- Settles O36: both forms exchange `acc` and the operand. -/
theorem xchCompletes : Obligations.XchCompletes := fun _ =>
  ⟨fun _ => completes_of_exchange rfl, fun _ => completes_of_exchange rfl⟩

/-- Settles O37: what the second exchange takes back is what the first gave. -/
theorem twoExchangesRestore : Obligations.TwoExchangesRestore := by
  intro s a
  obtain ⟨t, ht, ⟨hread, hregs, hcells⟩, hacc, -, -, -, hparams, -⟩ := (xchCompletes s).1 a
  obtain ⟨u, hu, ⟨hread', hregs', hcells'⟩, hacc', -, -, -, hparams', -⟩ := (xchCompletes t).1 a
  have hat : t.sfrAt a = s.sfrAt a := State.sfrAt_congr hparams a
  have hat' : u.sfrAt a = s.sfrAt a := (State.sfrAt_congr hparams' a).trans hat
  have hback : u.memRead a = s.memRead a := hread'.trans hacc
  refine ⟨t, u, ht, hu, fun r => ?_, fun k => ?_⟩
  · by_cases hr : r = .acc
    · subst hr
      exact hacc'.trans hread
    by_cases ha : s.sfrAt a = some r
    · rwa [State.memRead_of_some ha, State.memRead_of_some (hat'.trans ha)] at hback
    · have hr : r ∉ [Reg.acc] := by simpa using hr
      exact (hregs' r hr (hat ▸ ha)).trans (hregs r hr ha)
  · by_cases hk : s.sfrAt a = none ∧ k = a.toNat
    · obtain ⟨ha, rfl⟩ := hk
      rwa [State.memRead_of_none ha, State.memRead_of_none (hat'.trans ha)] at hback
    · exact (hcells' k (hat ▸ hk)).trans (hcells k hk)

/-! The stack (R115, R116). -/

section Stack
variable {s : State} {a : DataAddr}

theorem stackAddr_toNat (v : Byte) : (stackAddr v).toNat = v.toNat := BitVec.toNat_setWidth_of_le (by decide)

theorem exec_pushDir_of_ne (h : s.sfrAt a ≠ some .sp) : exec (.pushDir a) s = .next ((s.pushFrom a).advance 2) := if_neg h

theorem exec_popDir_of_ne (h : s.sfrAt a ≠ some .sp) : exec (.popDir a) s = .next ((s.popTo a).advance 2) := if_neg h

/-- Settles O34: the two meanings where the operand is `sp`. -/
theorem pushPopOfSpRefused : Obligations.PushPopOfSpRefused := fun _ _ h => ⟨if_pos h, if_pos h⟩

/-- Settles O32: a store at the incremented `sp`, from the state with `sp` incremented. -/
theorem pushCompletes : Obligations.PushCompletes := by
  intro s a h
  obtain ⟨hread, hregs, hcells⟩ := stored_memWrite (s := s.setSp (s.sp + 1)) (a := stackAddr (s.sp + 1)) (v := s.memRead a)
    (len := 2)
  refine ⟨_, exec_pushDir_of_ne h, ⟨hread, fun r hr hst => ?_, hcells⟩, hregs .sp nofun, ?_,
    flagsKept_memWrite (s := s.setSp (s.sp + 1)), advanced_memWrite (s := s.setSp (s.sp + 1))⟩
  · exact (hregs r nofun hst).trans (State.readReg_setSp _ (List.ne_of_not_mem_cons hr))
  · simp [stackAddr_toNat, BitVec.toNat_add]

/-- Settles O33: a store of the stack cell's byte, then `sp` decremented, which the store did not touch. -/
theorem popCompletes : Obligations.PopCompletes := by
  intro s a h
  have hsp : (s.memWrite a (s.memRead (stackAddr s.sp))).sp = s.sp := State.readReg_memWrite_of_ne (r := .sp) _ h
  have hacc (ha : s.sfrAt a ≠ some .acc) := State.readReg_memWrite_of_ne (r := .acc) (s.memRead (stackAddr s.sp)) ha
  refine ⟨_, exec_popDir_of_ne h, ⟨?_, fun r hr ha => ?_, fun _ => State.cell_memWrite_of_ne⟩, congrArg (· - 1) hsp,
    stackAddr_toNat _, hacc, flagsKept_memWrite (len := 2), advanced_memWrite⟩
  · refine State.memRead_advance.trans ((State.memRead_writeReg (r := .sp)).trans ?_)
    rw [State.memWrite_sfrAt, if_neg h, State.memRead_memWrite_same]
  · exact (State.readReg_advance ..).trans (State.readReg_popTo (List.ne_of_not_mem_cons hr) ha)

/-- Settles O35: the byte that was pushed is the one that `sp` points to. -/
theorem pushThenPopCopies : Obligations.PushThenPopCopies := by
  intro s x y hx hy hst
  obtain ⟨t, ht, ⟨hread, -, -⟩, hsp, -, -, -, -, hparams, -⟩ := pushCompletes s x hx
  have hsp : t.sp = s.sp + 1 := hsp (by rw [hst]; nofun)
  obtain ⟨u, hu, ⟨hread', -, -⟩, hsp', -⟩ := popCompletes t y (State.sfrAt_congr hparams y ▸ hy)
  refine ⟨t, u, ht, hu, ?_, ?_⟩
  · rw [hread', hsp, hread]
  · rw [hsp', hsp, BitVec.add_sub_cancel]

end Stack

/-! Whole-machine frames. -/

/-- Settles O38: the frame of the registers over all instructions. -/
theorem registersChangeOnlyAsTabled : Obligations.RegistersChangeOnlyAsTabled :=
  fun _ _ _ _ => exec_readReg_of_not_written

/-- `div` keeps the data space, with a zero divisor and without. -/
theorem divide_data {s : State} : s.divide.data = s.data := by
  unfold State.divide
  split <;> rfl

/-- Settles O39: an instruction that stores nothing keeps the data space, and one that stores writes one address. -/
theorem cellsChangeOnlyWhereStored : Obligations.CellsChangeOnlyWhereStored := by
  intro i s t k h hs
  cases i with
  | addImm | addDir | addInd | addcImm | addcDir | addcInd | subImm | subDir | subInd | subcImm | subcDir | subcInd | mul
  | andImm | andDir | andInd | orImm | orDir | orInd | xorImm | xorDir | xorInd | rol | rolc | ror | rorc | ldDir | ldInd
  | ldc =>
    cases h
    rfl
  | div =>
    cases h
    exact congrArg (Memory.read · k) divide_data
  | incDir | incInd | decDir | decInd | stDir | stInd | movDir | movInd | xchDir | xchInd =>
    cases h
    exact State.cell_memWrite_of_ne (hs _ rfl)
  | pushDir a =>
    simp only [exec, execPushDir] at h
    split at h <;> cases h
    exact State.cell_memWrite_of_ne (s := s.setSp (s.sp + 1)) (hs _ rfl)
  | popDir a =>
    simp only [exec, execPopDir] at h
    split at h <;> cases h
    exact State.cell_memWrite_of_ne (hs _ rfl)

end Sys2Proof.Machine

/-! The reset state, the cycle counts, and the assembler (R58 to R64). -/

namespace Sys2Proof.Machine

/-- Settles O53: the reset state evaluated, register by register. -/
theorem resetValues : Obligations.ResetValues := ⟨rfl, rfl, fun r => by cases r <;> rfl⟩

/-- Settles O54: the count of each form. -/
theorem cycleCountsAsTabled : Obligations.CycleCountsAsTabled := fun i => by cases i <;> rfl

section Assembling
variable {syms : List (String × Nat)} {l : SourceLine} {m : Mnemonic} {vs : List ArgValue} {i : Instr}

/-! A word without a meaning (R4, R64). -/

theorem assembleLine_of_undocumented (h : documentedMnemonic l.word = none) :
    assembleLine syms l = .error (.undocumentedMnemonic l.word) := by simp [assembleLine, h]

theorem assembleText_of_undocumented {text : String} (h : documentedMnemonic (lineWord text.toList) = none) :
    assembleText syms text = .error (.undocumentedMnemonic (lineWord text.toList)) := by
  simp [assembleText, assembleChars, h]

/-- The index table names the 22 words, and none has a section of its own. -/
theorem documentedMnemonic_of_namedOnly : ∀ w ∈ namedOnlyWords, documentedMnemonic w = none := by decide

/-- Settles O55: neither kind of word is documented, and the word is looked at first. -/
theorem assemblerRefusesUndocumentedWords : Obligations.AssemblerRefusesUndocumentedWords := by
  intro syms w hw
  have hnone : documentedMnemonic w = none := hw.elim (documentedMnemonic_of_namedOnly w) documentedMnemonic_of_lookup_none
  refine ⟨fun args => assembleLine_of_undocumented hnone, fun text ht => ?_⟩
  subst ht
  exact assembleText_of_undocumented hnone

/-! The source line of an instruction. -/

/-- A line whose word is documented, whose arguments have values and whose mnemonic has a form for them. -/
theorem assembleLine_of_form (hw : documentedMnemonic l.word = some m) (hvs : argValues syms l.args = .ok vs)
    (hform : instrOf m vs = some i) : assembleLine syms l = .ok i := by
  simp [assembleLine, hw, hvs, hform]

/-- A documented mnemonic is the one its written word is read as. -/
theorem documentedMnemonic_mnemonicWord (h : Mnemonic.documented m = true) : documentedMnemonic (mnemonicWord m) = some m := by
  revert h
  cases m <;> decide

/-- Every instruction has a documented mnemonic (R3). -/
theorem documented_mnemonic (i : Instr) : Mnemonic.documented i.mnemonic = true := by cases i <;> rfl

theorem value_argDir (a : DataAddr) : Arg.value syms (argDir a) = .ok (.dir a) := by
  simp [argDir, Arg.value, Expr.eval, inRangeD9, a.isLt]

theorem value_argImm (v : Byte) : Arg.value syms (argImm v) = .ok (.imm v) := by
  simp [argImm, Arg.value, Expr.eval, inRangeI8, v.isLt]

theorem value_argInd (n : IndReg) : Arg.value syms (argInd n) = .ok (.ind n) := by
  simp [argInd, Arg.value, inRangeRi, n.isLt]

theorem argValues_one {x : Arg} {v : ArgValue} (h : Arg.value syms x = .ok v) : argValues syms [x] = .ok [v] := by
  simp [argValues, h]

theorem argValues_two {x y : Arg} {v u : ArgValue} (hx : Arg.value syms x = .ok v) (hy : Arg.value syms y = .ok u) :
    argValues syms [x, y] = .ok [v, u] := by
  simp [argValues, hx, hy]

/-- Settles O56: the values of the numerals an instruction is written with, and its mnemonic's form for them. -/
theorem assemblerReachesEveryForm : Obligations.AssemblerReachesEveryForm := by
  intro i syms
  have hw : documentedMnemonic (sourceOf i).word = some i.mnemonic := documentedMnemonic_mnemonicWord (documented_mnemonic i)
  cases i with
  | mul | div | rol | rolc | ror | rorc | ldc => exact assembleLine_of_form hw rfl rfl
  | addImm v | addcImm v | subImm v | subcImm v | andImm v | orImm v | xorImm v =>
    exact assembleLine_of_form hw (argValues_one (value_argImm v)) rfl
  | addDir a | addcDir a | subDir a | subcDir a | incDir a | decDir a | andDir a | orDir a | xorDir a | ldDir a | stDir a
  | pushDir a | popDir a | xchDir a => exact assembleLine_of_form hw (argValues_one (value_argDir a)) rfl
  | addInd n | addcInd n | subInd n | subcInd n | incInd n | decInd n | andInd n | orInd n | xorInd n | ldInd n | stInd n
  | xchInd n => exact assembleLine_of_form hw (argValues_one (value_argInd n)) rfl
  | movDir v a => exact assembleLine_of_form hw (argValues_two (value_argImm v) (value_argDir a)) rfl
  | movInd v n => exact assembleLine_of_form hw (argValues_two (value_argImm v) (value_argInd n)) rfl

end Assembling

/-- Lines that assemble count towards the number of the first one that does not. -/
theorem assembleEach_append_refused {α : Type} {bytesOf : α → Except AsmRefusal (List Byte)} {bad : α} {e : AsmRefusal}
    (hbad : bytesOf bad = .error e) (more : List α) (good : List α) (hgood : ∀ l ∈ good, ∃ bytes, bytesOf l = .ok bytes)
    (n : Nat) : assembleEach bytesOf n (good ++ bad :: more) = .error (n + good.length, e) := by
  induction good generalizing n with
  | nil => exact assembleEach_cons_refused hbad
  | cons l good ih =>
    obtain ⟨bytes, hl⟩ := hgood l List.mem_cons_self
    rw [List.cons_append, assembleEach_cons_ok hl, ih fun l hl => hgood l (List.mem_cons_of_mem _ hl)]
    simp [Except.map, Nat.add_comm, Nat.add_left_comm]

/-- Settles O58: the lines of the text, counted from 1. -/
theorem assemblerNamesTheRefusedLine : Obligations.AssemblerNamesTheRefusedLine := by
  intro syms text good bad more e hlines hgood hbad
  rw [assembleSource, hlines, assembleEach_append_refused hbad more good hgood, Nat.add_comm]

end Sys2Proof.Machine
